-- ==== Sys2Proof/Word.lean ====
section
/-! DEFINITION. The two word types of the machine (00_scope R6): `u8` and `u16`. -/

namespace Sys2Proof

/-- `u8`: an unsigned 8-bit value (R6). -/
abbrev Byte := BitVec 8

/-- `u16`: an unsigned 16-bit value, an address or a counter (R6). -/
abbrev Addr := BitVec 16

end Sys2Proof
end

