-- ==== Sys2Proof/Machine/Bits.lean ====
section
/-! DEFINITION. The notation of 00_scope R6: bits, byte order, sign extension. -/

namespace Sys2Proof

/-- `lo(w)` = `w[7:0]` (R6). -/
def lo (w : Addr) : Byte := w.extractLsb' 0 8

/-- `hi(w)` = `w[15:8]` (R6). -/
def hi (w : Addr) : Byte := w.extractLsb' 8 8

/-- `h ++ l`, the u16 with high byte h and low byte l (R6). -/
def join (h l : Byte) : Addr := h ++ l

/-- `v[i] = 1` (R6). -/
def bit (v : Byte) (i : Nat) : Bool := v.getLsbD i

/-- `0x00 ++ z`, a zero-page address (R143). -/
def zeroPage (z : Byte) : Addr := join 0x00 z

/-- `0x01 ++ sp`, a stack address: `STACK_PAGE` is 0x0100 (R21, R360). -/
def stackAddr (sp : Byte) : Addr := join 0x01 sp

/-- `u16(pc + sext_8(d))`, the target of a relative branch (R180, R320). -/
def branchTarget (pc : Addr) (d : Byte) : Addr := pc + d.signExtend 16

/-- The access of an indexed address crosses a page: `hi(ea) != hi(b)` (R185). -/
def crossed (b ea : Addr) : Bool := hi ea != hi b

end Sys2Proof
end

