-- ==== Sys2Proof/Config.lean ====
section
/-! DEFINITION. What one machine fixes for good (the record `Cfg` of 00_scope R4) and the free values
of the model (93_implementation_defined U3). The default record and the well-formedness check of R5
are in `Machine/Map.lean`. -/

namespace Sys2Proof

/-- `ISA_LEVEL` (R4, R147): which opcodes decode. -/
inductive IsaLevel where
  | c02Base
  | c02BitOps
  | w65c02s
  deriving DecidableEq, Repr

/-- `BRK_MODE` (R4, R336, R413). -/
inductive BrkMode where
  | architectural
  | fatal
  deriving DecidableEq, Repr

/-- The CPU line a VIA raises, `VIA_IRQ_LINE[i]` (R4, R418). -/
inductive IrqLine where
  | irq
  | nmi
  deriving DecidableEq, Repr

/-- One VIA of the configuration: `VIA_BASE[i]` and `VIA_IRQ_LINE[i]` (R4). -/
structure ViaSlot where
  base : Nat
  line : IrqLine
  deriving DecidableEq, Repr

/-- The implementation parameters of R4. `N_VIA` is the length of `vias`. The vectors and the stack page,
which R4 lists too, are fixed by decision D4 and are constants of `Machine/Ops.lean` (log 6). -/
structure Cfg where
  isaLevel       : IsaLevel
  brkMode        : BrkMode
  cycleBits      : Nat
  ramStart       : Nat
  ramSize        : Nat
  ramBanks       : Nat
  devStart       : Nat
  /-- inclusive -/
  devEnd         : Nat
  aciaBase       : Nat
  vias           : List ViaSlot
  bromStart      : Nat
  bromSize       : Nat
  bromBanks      : Nat
  sromStart      : Nat
  sromSize       : Nat
  strictUnmapped : Bool
  viaT2Reloads   : Bool
  deriving DecidableEq, Repr

/-- What decimal ADC or SBC leaves when an operand has a nibble above 9 (R241, R242, U3: `any value` for A,
N, V, Z, C): result in bits 7..0, then N, V, Z, C in bits 8, 9, 10, 11. A free value: no body, so nothing
can be proved of it (log 5). The argument is the counter `State.draws`. -/
opaque Config.freeDecimal : Nat → BitVec 12

end Sys2Proof
end

