-- ==== Sys2Proof/Syntax.lean ====
section
/-! DEFINITION. Instructions as syntax (30_encoding R140 to R145): one constructor of `Instr` per mnemonic of
`spec/opcode_table.json`; the rows of one mnemonic differ in the operand form, which is the constructor's
argument (log 15). Which forms a mnemonic has is `WellFormed.lean`'s matter. -/

namespace Sys2Proof

/-- The format names of R140; `none` is the table's word for the illegal rows. -/
inductive Format where
  | imp | acc | imm | zp | zpx | zpy | izx | izy | izp | rel | brk | abs | abx | aby | ind | iax | zpr
  | none
  deriving DecidableEq, Repr

/-- An operand in memory (R140, R143): the zero-page forms carry byte 1, the absolute forms the 16-bit operand. -/
inductive Mem where
  | zp  (z : Byte)
  | zpx (z : Byte)
  | zpy (z : Byte)
  | izx (z : Byte)
  | izy (z : Byte)
  | izp (z : Byte)
  | abs (a : Addr)
  | abx (b : Addr)
  | aby (b : Addr)
  deriving DecidableEq, Repr

/-- The operand of an instruction of kind R (R184, R186): immediate or in memory. -/
inductive ReadOp where
  | imm (v : Byte)
  | mem (m : Mem)
  deriving DecidableEq, Repr

/-- The operand of an instruction of kind M (R184, R187): the accumulator or in memory. -/
inductive RmwOp where
  | acc
  | mem (m : Mem)
  deriving DecidableEq, Repr

/-- The operand of JMP (R332): `abs`, `ind`, `iax`. -/
inductive JumpOp where
  | abs (t : Addr)
  | ind (p : Addr)
  | iax (p : Addr)
  deriving DecidableEq, Repr

/-- The instructions (R145). `d` is a displacement byte, `z` a zero-page address, `pad` BRK's padding byte (R183),
`op` the illegal opcode byte itself (R146, R147). -/
inductive Instr where
  -- 41_load_store_transfer
  | lda (o : ReadOp)
  | ldx (o : ReadOp)
  | ldy (o : ReadOp)
  | sta (o : Mem)
  | stx (o : Mem)
  | sty (o : Mem)
  | stz (o : Mem)
  | tax | tay | txa | tya | tsx | txs
  -- 42_arithmetic_logic
  | adc (o : ReadOp)
  | sbc (o : ReadOp)
  | and (o : ReadOp)
  | ora (o : ReadOp)
  | eor (o : ReadOp)
  | cmp (o : ReadOp)
  | cpx (o : ReadOp)
  | cpy (o : ReadOp)
  | bit (o : ReadOp)
  | inc (o : RmwOp)
  | dec (o : RmwOp)
  | inx | iny | dex | dey
  -- 43_shift_bit
  | asl (o : RmwOp)
  | lsr (o : RmwOp)
  | rol (o : RmwOp)
  | ror (o : RmwOp)
  | tsb (o : Mem)
  | trb (o : Mem)
  | rmb0 (z : Byte)
  | rmb1 (z : Byte)
  | rmb2 (z : Byte)
  | rmb3 (z : Byte)
  | rmb4 (z : Byte)
  | rmb5 (z : Byte)
  | rmb6 (z : Byte)
  | rmb7 (z : Byte)
  | smb0 (z : Byte)
  | smb1 (z : Byte)
  | smb2 (z : Byte)
  | smb3 (z : Byte)
  | smb4 (z : Byte)
  | smb5 (z : Byte)
  | smb6 (z : Byte)
  | smb7 (z : Byte)
  -- 44_control_transfer
  | bcc (d : Byte)
  | bcs (d : Byte)
  | beq (d : Byte)
  | bne (d : Byte)
  | bmi (d : Byte)
  | bpl (d : Byte)
  | bvc (d : Byte)
  | bvs (d : Byte)
  | bra (d : Byte)
  | bbr0 (z : Byte) (d : Byte)
  | bbr1 (z : Byte) (d : Byte)
  | bbr2 (z : Byte) (d : Byte)
  | bbr3 (z : Byte) (d : Byte)
  | bbr4 (z : Byte) (d : Byte)
  | bbr5 (z : Byte) (d : Byte)
  | bbr6 (z : Byte) (d : Byte)
  | bbr7 (z : Byte) (d : Byte)
  | bbs0 (z : Byte) (d : Byte)
  | bbs1 (z : Byte) (d : Byte)
  | bbs2 (z : Byte) (d : Byte)
  | bbs3 (z : Byte) (d : Byte)
  | bbs4 (z : Byte) (d : Byte)
  | bbs5 (z : Byte) (d : Byte)
  | bbs6 (z : Byte) (d : Byte)
  | bbs7 (z : Byte) (d : Byte)
  | jmp (o : JumpOp)
  | jsr (t : Addr)
  | rts | rti
  | brk (pad : Byte)
  -- 45_stack_flags_system
  | pha | php | phx | phy | pla | plp | plx | ply
  | clc | sec | cli | sei | cld | sed | clv
  | nop | wai | stp
  -- 30_encoding R146
  | illegal (op : Byte)
  deriving DecidableEq, Repr

/-- The format of a memory operand. -/
def Mem.format : Mem → Format
  | .zp _ => .zp | .zpx _ => .zpx | .zpy _ => .zpy
  | .izx _ => .izx | .izy _ => .izy | .izp _ => .izp
  | .abs _ => .abs | .abx _ => .abx | .aby _ => .aby

/-- The format of a kind R operand. -/
def ReadOp.format : ReadOp → Format
  | .imm _ => .imm
  | .mem m => m.format

/-- The format of a kind M operand. -/
def RmwOp.format : RmwOp → Format
  | .acc => .acc
  | .mem m => m.format

/-- The format of a JMP operand. -/
def JumpOp.format : JumpOp → Format
  | .abs _ => .abs | .ind _ => .ind | .iax _ => .iax

/-- The format of an instruction (R140, the column `format` of the opcode table). -/
def Instr.format : Instr → Format
  | .lda o | .ldx o | .ldy o | .adc o | .sbc o | .and o | .ora o | .eor o | .cmp o | .cpx o | .cpy o | .bit o => o.format
  | .sta o | .stx o | .sty o | .stz o | .tsb o | .trb o => o.format
  | .inc o | .dec o | .asl o | .lsr o | .rol o | .ror o => o.format
  | .rmb0 _ | .rmb1 _ | .rmb2 _ | .rmb3 _ | .rmb4 _ | .rmb5 _ | .rmb6 _ | .rmb7 _ => .zp
  | .smb0 _ | .smb1 _ | .smb2 _ | .smb3 _ | .smb4 _ | .smb5 _ | .smb6 _ | .smb7 _ => .zp
  | .bcc _ | .bcs _ | .beq _ | .bne _ | .bmi _ | .bpl _ | .bvc _ | .bvs _ | .bra _ => .rel
  | .bbr0 _ _ | .bbr1 _ _ | .bbr2 _ _ | .bbr3 _ _ | .bbr4 _ _ | .bbr5 _ _ | .bbr6 _ _ | .bbr7 _ _ => .zpr
  | .bbs0 _ _ | .bbs1 _ _ | .bbs2 _ _ | .bbs3 _ _ | .bbs4 _ _ | .bbs5 _ _ | .bbs6 _ _ | .bbs7 _ _ => .zpr
  | .jmp o => o.format
  | .jsr _ => .abs
  | .brk _ => .brk
  | .tax | .tay | .txa | .tya | .tsx | .txs | .inx | .iny | .dex | .dey | .rts | .rti => .imp
  | .pha | .php | .phx | .phy | .pla | .plp | .plx | .ply => .imp
  | .clc | .sec | .cli | .sei | .cld | .sed | .clv | .nop | .wai | .stp => .imp
  | .illegal _ => .none

/-- Bytes of an instruction of a format (R140; one byte, the opcode, for an illegal one, R146). -/
def Format.length : Format → Nat
  | .imp | .acc | .none => 1
  | .imm | .zp | .zpx | .zpy | .izx | .izy | .izp | .rel | .brk => 2
  | .abs | .abx | .aby | .ind | .iax | .zpr => 3

end Sys2Proof
end

