-- ==== Sys2Proof/WellFormed.lean ====
section
/-! DEFINITION. Which instruction terms the machine has: the formats each instruction's rule lists
(R200 to R378), the level that has the opcode (R147), and the bytes that are illegal (R146). -/

namespace Sys2Proof

/-- The nine formats of the accumulator group (R200, R243 to R248). -/
def accFormats : List Format := [.imm, .zp, .zpx, .abs, .abx, .aby, .izx, .izy, .izp]

/-- The formats of the shifts (43_shift_bit section 1) and of INC and DEC (R252, R253). -/
def shiftFormats : List Format := [.acc, .zp, .zpx, .abs, .abx]

/-- The formats an instruction's own rule gives it. -/
def Instr.formats : Instr → List Format
  | .lda _ | .adc _ | .sbc _ | .and _ | .ora _ | .eor _ | .cmp _ => accFormats
  | .ldx _ => [.imm, .zp, .zpy, .abs, .aby]
  | .ldy _ => [.imm, .zp, .zpx, .abs, .abx]
  | .sta _ => [.zp, .zpx, .abs, .abx, .aby, .izx, .izy, .izp]
  | .stx _ => [.zp, .zpy, .abs]
  | .sty _ => [.zp, .zpx, .abs]
  | .stz _ => [.zp, .zpx, .abs, .abx]
  | .cpx _ | .cpy _ => [.imm, .zp, .abs]
  | .bit _ => [.zp, .abs, .imm, .zpx, .abx]
  | .inc _ | .dec _ | .asl _ | .lsr _ | .rol _ | .ror _ => shiftFormats
  | .tsb _ | .trb _ => [.zp, .abs]
  | i => [i.format]

/-- The four bit-numbered families, the 32 opcodes above `C02_BASE` (R147). -/
def Instr.isBitOp : Instr → Bool
  | .rmb0 _ | .rmb1 _ | .rmb2 _ | .rmb3 _ | .rmb4 _ | .rmb5 _ | .rmb6 _ | .rmb7 _ => true
  | .smb0 _ | .smb1 _ | .smb2 _ | .smb3 _ | .smb4 _ | .smb5 _ | .smb6 _ | .smb7 _ => true
  | .bbr0 _ _ | .bbr1 _ _ | .bbr2 _ _ | .bbr3 _ _ | .bbr4 _ _ | .bbr5 _ _ | .bbr6 _ _ | .bbr7 _ _ => true
  | .bbs0 _ _ | .bbs1 _ _ | .bbs2 _ _ | .bbs3 _ _ | .bbs4 _ _ | .bbs5 _ _ | .bbs6 _ _ | .bbs7 _ _ => true
  | _ => false

/-- The 44 bytes of R146. -/
def illegalBytes : List Byte :=
  [0x02, 0x03, 0x0B, 0x13, 0x1B, 0x22, 0x23, 0x2B, 0x33, 0x3B, 0x42, 0x43, 0x44, 0x4B, 0x53, 0x54, 0x5B, 0x5C] ++
  [0x62, 0x63, 0x6B, 0x73, 0x7B, 0x82, 0x83, 0x8B, 0x93, 0x9B, 0xA3, 0xAB, 0xB3, 0xBB, 0xC2, 0xC3, 0xD3, 0xD4] ++
  [0xDC, 0xE2, 0xE3, 0xEB, 0xF3, 0xF4, 0xFB, 0xFC]

/-- The opcode bytes that are illegal at a level (R146, R147). -/
def illegalAt (lvl : IsaLevel) (op : Byte) : Bool :=
  illegalBytes.contains op ||
  match lvl with
  | .w65c02s => false
  | .c02BitOps => op == 0xCB || op == 0xDB
  | .c02Base => op == 0xCB || op == 0xDB || op.toNat % 16 == 0x7 || op.toNat % 16 == 0xF

/-- The level has the instruction (R147). -/
def levelHas (lvl : IsaLevel) (i : Instr) : Bool :=
  match lvl with
  | .w65c02s => true
  | .c02BitOps => i != .wai && i != .stp
  | .c02Base => i != .wai && i != .stp && !i.isBitOp

/-- The illegal-byte check of a term: an `illegal` term must carry a byte that is illegal at the level. -/
def illegalOk (lvl : IsaLevel) : Instr → Bool
  | .illegal op => illegalAt lvl op
  | _ => true

/-- A term is an instruction of the machine at a level: its format is one its rule lists, the level has it,
and an illegal term carries an illegal byte. -/
def Instr.wellFormed (lvl : IsaLevel) (i : Instr) : Bool :=
  i.formats.contains i.format && levelHas lvl i && illegalOk lvl i

end Sys2Proof
end

