-- ==== Sys2Proof/Decode.lean ====
section
/-! DEFINITION. Decoding bytes to instructions by the opcode matrix of 30_encoding R145, and encoding
instructions to bytes by the per-mnemonic opcode lists of the same rule: the spec writes its map twice, the
decoder reads one and the encoder the other. -/

namespace Sys2Proof

/-- A cell of the opcode matrix: what the opcode byte names and which operand bytes follow (R140). -/
inductive Entry where
  | illegal
  | one   (i : Instr)
  | two   (f : Byte → Instr)
  | three (f : Addr → Instr)
  | zpr   (f : Byte → Byte → Instr)

/-- Kind R, immediate. -/
def rdImm (f : ReadOp → Instr) : Entry := .two fun v => f (.imm v)
/-- Kind R, one zero-page operand byte. -/
def rdZp (f : ReadOp → Instr) (m : Byte → Mem) : Entry := .two fun z => f (.mem (m z))
/-- Kind R, a 16-bit operand. -/
def rdAbs (f : ReadOp → Instr) (m : Addr → Mem) : Entry := .three fun a => f (.mem (m a))
/-- An operand always in memory, one zero-page operand byte. -/
def memZp (f : Mem → Instr) (m : Byte → Mem) : Entry := .two fun z => f (m z)
/-- An operand always in memory, a 16-bit operand. -/
def memAbs (f : Mem → Instr) (m : Addr → Mem) : Entry := .three fun a => f (m a)
/-- Kind M in memory, one zero-page operand byte. -/
def rmwZp (f : RmwOp → Instr) (m : Byte → Mem) : Entry := .two fun z => f (.mem (m z))
/-- Kind M in memory, a 16-bit operand. -/
def rmwAbs (f : RmwOp → Instr) (m : Addr → Mem) : Entry := .three fun a => f (.mem (m a))
/-- JMP. -/
def jump (m : Addr → JumpOp) : Entry := .three fun a => .jmp (m a)

/-! ## The matrix of R145, one definition a row -/

/-- Row 0x of the matrix. -/
def row0 : List Entry :=
  [.two .brk, rdZp .ora .izx, .illegal, .illegal,
   memZp .tsb .zp, rdZp .ora .zp, rmwZp .asl .zp, .two .rmb0,
   .one .php, rdImm .ora, .one (.asl .acc), .illegal,
   memAbs .tsb .abs, rdAbs .ora .abs, rmwAbs .asl .abs, .zpr .bbr0]

/-- Row 1x of the matrix. -/
def row1 : List Entry :=
  [.two .bpl, rdZp .ora .izy, rdZp .ora .izp, .illegal,
   memZp .trb .zp, rdZp .ora .zpx, rmwZp .asl .zpx, .two .rmb1,
   .one .clc, rdAbs .ora .aby, .one (.inc .acc), .illegal,
   memAbs .trb .abs, rdAbs .ora .abx, rmwAbs .asl .abx, .zpr .bbr1]

/-- Row 2x of the matrix. -/
def row2 : List Entry :=
  [.three .jsr, rdZp .and .izx, .illegal, .illegal,
   rdZp .bit .zp, rdZp .and .zp, rmwZp .rol .zp, .two .rmb2,
   .one .plp, rdImm .and, .one (.rol .acc), .illegal,
   rdAbs .bit .abs, rdAbs .and .abs, rmwAbs .rol .abs, .zpr .bbr2]

/-- Row 3x of the matrix. -/
def row3 : List Entry :=
  [.two .bmi, rdZp .and .izy, rdZp .and .izp, .illegal,
   rdZp .bit .zpx, rdZp .and .zpx, rmwZp .rol .zpx, .two .rmb3,
   .one .sec, rdAbs .and .aby, .one (.dec .acc), .illegal,
   rdAbs .bit .abx, rdAbs .and .abx, rmwAbs .rol .abx, .zpr .bbr3]

/-- Row 4x of the matrix. -/
def row4 : List Entry :=
  [.one .rti, rdZp .eor .izx, .illegal, .illegal,
   .illegal, rdZp .eor .zp, rmwZp .lsr .zp, .two .rmb4,
   .one .pha, rdImm .eor, .one (.lsr .acc), .illegal,
   jump .abs, rdAbs .eor .abs, rmwAbs .lsr .abs, .zpr .bbr4]

/-- Row 5x of the matrix. -/
def row5 : List Entry :=
  [.two .bvc, rdZp .eor .izy, rdZp .eor .izp, .illegal,
   .illegal, rdZp .eor .zpx, rmwZp .lsr .zpx, .two .rmb5,
   .one .cli, rdAbs .eor .aby, .one .phy, .illegal,
   .illegal, rdAbs .eor .abx, rmwAbs .lsr .abx, .zpr .bbr5]

/-- Row 6x of the matrix. -/
def row6 : List Entry :=
  [.one .rts, rdZp .adc .izx, .illegal, .illegal,
   memZp .stz .zp, rdZp .adc .zp, rmwZp .ror .zp, .two .rmb6,
   .one .pla, rdImm .adc, .one (.ror .acc), .illegal,
   jump .ind, rdAbs .adc .abs, rmwAbs .ror .abs, .zpr .bbr6]

/-- Row 7x of the matrix. -/
def row7 : List Entry :=
  [.two .bvs, rdZp .adc .izy, rdZp .adc .izp, .illegal,
   memZp .stz .zpx, rdZp .adc .zpx, rmwZp .ror .zpx, .two .rmb7,
   .one .sei, rdAbs .adc .aby, .one .ply, .illegal,
   jump .iax, rdAbs .adc .abx, rmwAbs .ror .abx, .zpr .bbr7]

/-- Row 8x of the matrix. -/
def row8 : List Entry :=
  [.two .bra, memZp .sta .izx, .illegal, .illegal,
   memZp .sty .zp, memZp .sta .zp, memZp .stx .zp, .two .smb0,
   .one .dey, rdImm .bit, .one .txa, .illegal,
   memAbs .sty .abs, memAbs .sta .abs, memAbs .stx .abs, .zpr .bbs0]

/-- Row 9x of the matrix. -/
def row9 : List Entry :=
  [.two .bcc, memZp .sta .izy, memZp .sta .izp, .illegal,
   memZp .sty .zpx, memZp .sta .zpx, memZp .stx .zpy, .two .smb1,
   .one .tya, memAbs .sta .aby, .one .txs, .illegal,
   memAbs .stz .abs, memAbs .sta .abx, memAbs .stz .abx, .zpr .bbs1]

/-- Row Ax of the matrix. -/
def rowA : List Entry :=
  [rdImm .ldy, rdZp .lda .izx, rdImm .ldx, .illegal,
   rdZp .ldy .zp, rdZp .lda .zp, rdZp .ldx .zp, .two .smb2,
   .one .tay, rdImm .lda, .one .tax, .illegal,
   rdAbs .ldy .abs, rdAbs .lda .abs, rdAbs .ldx .abs, .zpr .bbs2]

/-- Row Bx of the matrix. -/
def rowB : List Entry :=
  [.two .bcs, rdZp .lda .izy, rdZp .lda .izp, .illegal,
   rdZp .ldy .zpx, rdZp .lda .zpx, rdZp .ldx .zpy, .two .smb3,
   .one .clv, rdAbs .lda .aby, .one .tsx, .illegal,
   rdAbs .ldy .abx, rdAbs .lda .abx, rdAbs .ldx .aby, .zpr .bbs3]

/-- Row Cx of the matrix. -/
def rowC : List Entry :=
  [rdImm .cpy, rdZp .cmp .izx, .illegal, .illegal,
   rdZp .cpy .zp, rdZp .cmp .zp, rmwZp .dec .zp, .two .smb4,
   .one .iny, rdImm .cmp, .one .dex, .one .wai,
   rdAbs .cpy .abs, rdAbs .cmp .abs, rmwAbs .dec .abs, .zpr .bbs4]

/-- Row Dx of the matrix. -/
def rowD : List Entry :=
  [.two .bne, rdZp .cmp .izy, rdZp .cmp .izp, .illegal,
   .illegal, rdZp .cmp .zpx, rmwZp .dec .zpx, .two .smb5,
   .one .cld, rdAbs .cmp .aby, .one .phx, .one .stp,
   .illegal, rdAbs .cmp .abx, rmwAbs .dec .abx, .zpr .bbs5]

/-- Row Ex of the matrix. -/
def rowE : List Entry :=
  [rdImm .cpx, rdZp .sbc .izx, .illegal, .illegal,
   rdZp .cpx .zp, rdZp .sbc .zp, rmwZp .inc .zp, .two .smb6,
   .one .inx, rdImm .sbc, .one .nop, .illegal,
   rdAbs .cpx .abs, rdAbs .sbc .abs, rmwAbs .inc .abs, .zpr .bbs6]

/-- Row Fx of the matrix. -/
def rowF : List Entry :=
  [.two .beq, rdZp .sbc .izy, rdZp .sbc .izp, .illegal,
   .illegal, rdZp .sbc .zpx, rmwZp .inc .zpx, .two .smb7,
   .one .sed, rdAbs .sbc .aby, .one .plx, .illegal,
   .illegal, rdAbs .sbc .abx, rmwAbs .inc .abx, .zpr .bbs7]

/-- The opcode matrix (R145): row by the high nibble, column by the low nibble. -/
def matrix : List (List Entry) :=
  [row0, row1, row2, row3, row4, row5, row6, row7] ++ [row8, row9, rowA, rowB, rowC, rowD, rowE, rowF]

/-- The cell of an opcode byte at the level `W65C02S`. -/
def matrixCell (op : Byte) : Entry := (matrix.getD (op.toNat / 16) []).getD (op.toNat % 16) .illegal

/-- The opcode is legal at the level as far as gating goes (R147). -/
def gateOpen (lvl : IsaLevel) (op : Byte) : Bool :=
  match lvl with
  | .w65c02s => true
  | .c02BitOps => op != 0xCB && op != 0xDB
  | .c02Base => op != 0xCB && op != 0xDB && op.toNat % 16 != 0x7 && op.toNat % 16 != 0xF

/-- What an opcode byte names under an `ISA_LEVEL` (R142, R147). -/
def entryAt (lvl : IsaLevel) (op : Byte) : Entry := if gateOpen lvl op then matrixCell op else .illegal

/-- Why a list of bytes is no instruction: it is empty, or it ends before the operand bytes of its opcode. -/
inductive DecodeError where
  | noOpcode
  | missingOperand (op : Byte)
  deriving DecidableEq, Repr

/-- Decode one instruction from the front of a list of bytes and give the rest of the list (R142, R143). Every
opcode byte decodes, the illegal ones to `illegal`; what is rejected, by name, is a list that is too short. -/
def decode (lvl : IsaLevel) : List Byte → Except DecodeError (Instr × List Byte)
  | [] => .error .noOpcode
  | op :: rest =>
    match entryAt lvl op, rest with
    | .illegal, r => .ok (.illegal op, r)
    | .one i, r => .ok (i, r)
    | .two f, b :: r => .ok (f b, r)
    | .three f, l :: h :: r => .ok (f (join h l), r)
    | .zpr f, z :: d :: r => .ok (f z d, r)
    | _, _ => .error (.missingOperand op)

/-! ## The encoder -/

/-- The operand bytes of a memory operand, low byte first (R143). -/
def Mem.bytes : Mem → List Byte
  | .zp z | .zpx z | .zpy z | .izx z | .izy z | .izp z => [z]
  | .abs a | .abx a | .aby a => [lo a, hi a]

/-- The operand bytes of a kind R operand. -/
def ReadOp.bytes : ReadOp → List Byte
  | .imm v => [v]
  | .mem m => m.bytes

/-- The operand bytes of a kind M operand. -/
def RmwOp.bytes : RmwOp → List Byte
  | .acc => []
  | .mem m => m.bytes

/-- The operand bytes of a JMP operand. -/
def JumpOp.bytes : JumpOp → List Byte
  | .abs t | .ind t | .iax t => [lo t, hi t]

/-- The bytes after the opcode (R140, R143). -/
def Instr.operandBytes : Instr → List Byte
  | .lda o | .ldx o | .ldy o | .adc o | .sbc o | .and o | .ora o | .eor o | .cmp o | .cpx o | .cpy o | .bit o => o.bytes
  | .sta o | .stx o | .sty o | .stz o | .tsb o | .trb o => o.bytes
  | .inc o | .dec o | .asl o | .lsr o | .rol o | .ror o => o.bytes
  | .rmb0 z | .rmb1 z | .rmb2 z | .rmb3 z | .rmb4 z | .rmb5 z | .rmb6 z | .rmb7 z => [z]
  | .smb0 z | .smb1 z | .smb2 z | .smb3 z | .smb4 z | .smb5 z | .smb6 z | .smb7 z => [z]
  | .bcc d | .bcs d | .beq d | .bne d | .bmi d | .bpl d | .bvc d | .bvs d | .bra d => [d]
  | .bbr0 z d | .bbr1 z d | .bbr2 z d | .bbr3 z d | .bbr4 z d | .bbr5 z d | .bbr6 z d | .bbr7 z d => [z, d]
  | .bbs0 z d | .bbs1 z d | .bbs2 z d | .bbs3 z d | .bbs4 z d | .bbs5 z d | .bbs6 z d | .bbs7 z d => [z, d]
  | .jmp o => o.bytes
  | .jsr t => [lo t, hi t]
  | .brk pad => [pad]
  | .tax | .tay | .txa | .tya | .tsx | .txs | .inx | .iny | .dex | .dey | .rts | .rti => []
  | .pha | .php | .phx | .phy | .pla | .plp | .plx | .ply => []
  | .clc | .sec | .cli | .sei | .cld | .sed | .clv | .nop | .wai | .stp => []
  | .illegal _ => []

/-- The per-mnemonic opcode list of R145: format and opcode byte. -/
def Instr.opcodes : Instr → List (Format × Byte)
  | .lda _ => [(.izx, 0xA1), (.zp, 0xA5), (.imm, 0xA9), (.abs, 0xAD), (.izy, 0xB1), (.izp, 0xB2), (.zpx, 0xB5), (.aby, 0xB9), (.abx, 0xBD)]
  | .ldx _ => [(.imm, 0xA2), (.zp, 0xA6), (.abs, 0xAE), (.zpy, 0xB6), (.aby, 0xBE)]
  | .ldy _ => [(.imm, 0xA0), (.zp, 0xA4), (.abs, 0xAC), (.zpx, 0xB4), (.abx, 0xBC)]
  | .sta _ => [(.izx, 0x81), (.zp, 0x85), (.abs, 0x8D), (.izy, 0x91), (.izp, 0x92), (.zpx, 0x95), (.aby, 0x99), (.abx, 0x9D)]
  | .stx _ => [(.zp, 0x86), (.abs, 0x8E), (.zpy, 0x96)]
  | .sty _ => [(.zp, 0x84), (.abs, 0x8C), (.zpx, 0x94)]
  | .stz _ => [(.zp, 0x64), (.zpx, 0x74), (.abs, 0x9C), (.abx, 0x9E)]
  | .tax => [(.imp, 0xAA)]
  | .tay => [(.imp, 0xA8)]
  | .txa => [(.imp, 0x8A)]
  | .tya => [(.imp, 0x98)]
  | .tsx => [(.imp, 0xBA)]
  | .txs => [(.imp, 0x9A)]
  | .adc _ => [(.izx, 0x61), (.zp, 0x65), (.imm, 0x69), (.abs, 0x6D), (.izy, 0x71), (.izp, 0x72), (.zpx, 0x75), (.aby, 0x79), (.abx, 0x7D)]
  | .sbc _ => [(.izx, 0xE1), (.zp, 0xE5), (.imm, 0xE9), (.abs, 0xED), (.izy, 0xF1), (.izp, 0xF2), (.zpx, 0xF5), (.aby, 0xF9), (.abx, 0xFD)]
  | .and _ => [(.izx, 0x21), (.zp, 0x25), (.imm, 0x29), (.abs, 0x2D), (.izy, 0x31), (.izp, 0x32), (.zpx, 0x35), (.aby, 0x39), (.abx, 0x3D)]
  | .ora _ => [(.izx, 0x01), (.zp, 0x05), (.imm, 0x09), (.abs, 0x0D), (.izy, 0x11), (.izp, 0x12), (.zpx, 0x15), (.aby, 0x19), (.abx, 0x1D)]
  | .eor _ => [(.izx, 0x41), (.zp, 0x45), (.imm, 0x49), (.abs, 0x4D), (.izy, 0x51), (.izp, 0x52), (.zpx, 0x55), (.aby, 0x59), (.abx, 0x5D)]
  | .cmp _ => [(.izx, 0xC1), (.zp, 0xC5), (.imm, 0xC9), (.abs, 0xCD), (.izy, 0xD1), (.izp, 0xD2), (.zpx, 0xD5), (.aby, 0xD9), (.abx, 0xDD)]
  | .cpx _ => [(.imm, 0xE0), (.zp, 0xE4), (.abs, 0xEC)]
  | .cpy _ => [(.imm, 0xC0), (.zp, 0xC4), (.abs, 0xCC)]
  | .bit _ => [(.zp, 0x24), (.abs, 0x2C), (.zpx, 0x34), (.abx, 0x3C), (.imm, 0x89)]
  | .inc _ => [(.acc, 0x1A), (.zp, 0xE6), (.abs, 0xEE), (.zpx, 0xF6), (.abx, 0xFE)]
  | .dec _ => [(.acc, 0x3A), (.zp, 0xC6), (.abs, 0xCE), (.zpx, 0xD6), (.abx, 0xDE)]
  | .inx => [(.imp, 0xE8)]
  | .iny => [(.imp, 0xC8)]
  | .dex => [(.imp, 0xCA)]
  | .dey => [(.imp, 0x88)]
  | .asl _ => [(.zp, 0x06), (.acc, 0x0A), (.abs, 0x0E), (.zpx, 0x16), (.abx, 0x1E)]
  | .lsr _ => [(.zp, 0x46), (.acc, 0x4A), (.abs, 0x4E), (.zpx, 0x56), (.abx, 0x5E)]
  | .rol _ => [(.zp, 0x26), (.acc, 0x2A), (.abs, 0x2E), (.zpx, 0x36), (.abx, 0x3E)]
  | .ror _ => [(.zp, 0x66), (.acc, 0x6A), (.abs, 0x6E), (.zpx, 0x76), (.abx, 0x7E)]
  | .tsb _ => [(.zp, 0x04), (.abs, 0x0C)]
  | .trb _ => [(.zp, 0x14), (.abs, 0x1C)]
  | .rmb0 _ => [(.zp, 0x07)]
  | .rmb1 _ => [(.zp, 0x17)]
  | .rmb2 _ => [(.zp, 0x27)]
  | .rmb3 _ => [(.zp, 0x37)]
  | .rmb4 _ => [(.zp, 0x47)]
  | .rmb5 _ => [(.zp, 0x57)]
  | .rmb6 _ => [(.zp, 0x67)]
  | .rmb7 _ => [(.zp, 0x77)]
  | .smb0 _ => [(.zp, 0x87)]
  | .smb1 _ => [(.zp, 0x97)]
  | .smb2 _ => [(.zp, 0xA7)]
  | .smb3 _ => [(.zp, 0xB7)]
  | .smb4 _ => [(.zp, 0xC7)]
  | .smb5 _ => [(.zp, 0xD7)]
  | .smb6 _ => [(.zp, 0xE7)]
  | .smb7 _ => [(.zp, 0xF7)]
  | .bcc _ => [(.rel, 0x90)]
  | .bcs _ => [(.rel, 0xB0)]
  | .beq _ => [(.rel, 0xF0)]
  | .bne _ => [(.rel, 0xD0)]
  | .bmi _ => [(.rel, 0x30)]
  | .bpl _ => [(.rel, 0x10)]
  | .bvc _ => [(.rel, 0x50)]
  | .bvs _ => [(.rel, 0x70)]
  | .bra _ => [(.rel, 0x80)]
  | .bbr0 _ _ => [(.zpr, 0x0F)]
  | .bbr1 _ _ => [(.zpr, 0x1F)]
  | .bbr2 _ _ => [(.zpr, 0x2F)]
  | .bbr3 _ _ => [(.zpr, 0x3F)]
  | .bbr4 _ _ => [(.zpr, 0x4F)]
  | .bbr5 _ _ => [(.zpr, 0x5F)]
  | .bbr6 _ _ => [(.zpr, 0x6F)]
  | .bbr7 _ _ => [(.zpr, 0x7F)]
  | .bbs0 _ _ => [(.zpr, 0x8F)]
  | .bbs1 _ _ => [(.zpr, 0x9F)]
  | .bbs2 _ _ => [(.zpr, 0xAF)]
  | .bbs3 _ _ => [(.zpr, 0xBF)]
  | .bbs4 _ _ => [(.zpr, 0xCF)]
  | .bbs5 _ _ => [(.zpr, 0xDF)]
  | .bbs6 _ _ => [(.zpr, 0xEF)]
  | .bbs7 _ _ => [(.zpr, 0xFF)]
  | .jmp _ => [(.abs, 0x4C), (.ind, 0x6C), (.iax, 0x7C)]
  | .jsr _ => [(.abs, 0x20)]
  | .rts => [(.imp, 0x60)]
  | .rti => [(.imp, 0x40)]
  | .brk _ => [(.brk, 0x00)]
  | .pha => [(.imp, 0x48)]
  | .php => [(.imp, 0x08)]
  | .phx => [(.imp, 0xDA)]
  | .phy => [(.imp, 0x5A)]
  | .pla => [(.imp, 0x68)]
  | .plp => [(.imp, 0x28)]
  | .plx => [(.imp, 0xFA)]
  | .ply => [(.imp, 0x7A)]
  | .clc => [(.imp, 0x18)]
  | .sec => [(.imp, 0x38)]
  | .cli => [(.imp, 0x58)]
  | .sei => [(.imp, 0x78)]
  | .cld => [(.imp, 0xD8)]
  | .sed => [(.imp, 0xF8)]
  | .clv => [(.imp, 0xB8)]
  | .nop => [(.imp, 0xEA)]
  | .wai => [(.imp, 0xCB)]
  | .stp => [(.imp, 0xDB)]
  | .illegal op => [(.none, op)]

/-- The opcode byte of an instruction: its format's entry in its mnemonic's list. -/
def Instr.opcode? (i : Instr) : Option Byte := i.opcodes.lookup i.format

/-- The bytes of a well-formed instruction (R140, R143, R145); no byte for a term with a format its mnemonic
does not have. -/
def encode (i : Instr) : List Byte :=
  match i.opcode? with
  | some op => op :: i.operandBytes
  | none => []

/-- The mnemonic as the opcode table spells it. -/
def Instr.mnemonic : Instr → String
  | .lda _ => "LDA"
  | .ldx _ => "LDX"
  | .ldy _ => "LDY"
  | .sta _ => "STA"
  | .stx _ => "STX"
  | .sty _ => "STY"
  | .stz _ => "STZ"
  | .tax => "TAX"
  | .tay => "TAY"
  | .txa => "TXA"
  | .tya => "TYA"
  | .tsx => "TSX"
  | .txs => "TXS"
  | .adc _ => "ADC"
  | .sbc _ => "SBC"
  | .and _ => "AND"
  | .ora _ => "ORA"
  | .eor _ => "EOR"
  | .cmp _ => "CMP"
  | .cpx _ => "CPX"
  | .cpy _ => "CPY"
  | .bit _ => "BIT"
  | .inc _ => "INC"
  | .dec _ => "DEC"
  | .inx => "INX"
  | .iny => "INY"
  | .dex => "DEX"
  | .dey => "DEY"
  | .asl _ => "ASL"
  | .lsr _ => "LSR"
  | .rol _ => "ROL"
  | .ror _ => "ROR"
  | .tsb _ => "TSB"
  | .trb _ => "TRB"
  | .rmb0 _ => "RMB0"
  | .rmb1 _ => "RMB1"
  | .rmb2 _ => "RMB2"
  | .rmb3 _ => "RMB3"
  | .rmb4 _ => "RMB4"
  | .rmb5 _ => "RMB5"
  | .rmb6 _ => "RMB6"
  | .rmb7 _ => "RMB7"
  | .smb0 _ => "SMB0"
  | .smb1 _ => "SMB1"
  | .smb2 _ => "SMB2"
  | .smb3 _ => "SMB3"
  | .smb4 _ => "SMB4"
  | .smb5 _ => "SMB5"
  | .smb6 _ => "SMB6"
  | .smb7 _ => "SMB7"
  | .bcc _ => "BCC"
  | .bcs _ => "BCS"
  | .beq _ => "BEQ"
  | .bne _ => "BNE"
  | .bmi _ => "BMI"
  | .bpl _ => "BPL"
  | .bvc _ => "BVC"
  | .bvs _ => "BVS"
  | .bra _ => "BRA"
  | .bbr0 _ _ => "BBR0"
  | .bbr1 _ _ => "BBR1"
  | .bbr2 _ _ => "BBR2"
  | .bbr3 _ _ => "BBR3"
  | .bbr4 _ _ => "BBR4"
  | .bbr5 _ _ => "BBR5"
  | .bbr6 _ _ => "BBR6"
  | .bbr7 _ _ => "BBR7"
  | .bbs0 _ _ => "BBS0"
  | .bbs1 _ _ => "BBS1"
  | .bbs2 _ _ => "BBS2"
  | .bbs3 _ _ => "BBS3"
  | .bbs4 _ _ => "BBS4"
  | .bbs5 _ _ => "BBS5"
  | .bbs6 _ _ => "BBS6"
  | .bbs7 _ _ => "BBS7"
  | .jmp _ => "JMP"
  | .jsr _ => "JSR"
  | .rts => "RTS"
  | .rti => "RTI"
  | .brk _ => "BRK"
  | .pha => "PHA"
  | .php => "PHP"
  | .phx => "PHX"
  | .phy => "PHY"
  | .pla => "PLA"
  | .plp => "PLP"
  | .plx => "PLX"
  | .ply => "PLY"
  | .clc => "CLC"
  | .sec => "SEC"
  | .cli => "CLI"
  | .sei => "SEI"
  | .cld => "CLD"
  | .sed => "SED"
  | .clv => "CLV"
  | .nop => "NOP"
  | .wai => "WAI"
  | .stp => "STP"
  | .illegal _ => "ILLEGAL"

/-! ## The table's words -/

/-- Byte k of an instruction given as the number `w` of `nbits` bits, bit 0 the least significant bit of the
first byte; every bit above `nbits` is 0. -/
def tableByte (nbits w k : Nat) : Byte := BitVec.ofNat 8 ((w % 2 ^ nbits) / 2 ^ (8 * k))

/-- The three bytes of a table word, the first at the lowest address. -/
def tableBytes (nbits w : Nat) : List Byte := [tableByte nbits w 0, tableByte nbits w 1, tableByte nbits w 2]

/-- The instruction the decoder reads from a table word, at the default level `W65C02S` (log 18). -/
def decodeTableWord (nbits w : Nat) : Option Instr :=
  match decode .w65c02s (tableBytes nbits w) with
  | .ok (i, _) => some i
  | .error _ => none

end Sys2Proof
end

