-- ==== Sys2Proof/Machine/Map.lean ====
section
/-! DEFINITION. The address map: the default configuration (00_scope R4, 20_memory R95), the well-formedness
check of R5, and the address decoder (R84). -/

namespace Sys2Proof

/-- The default configuration of R4, whose map is the table of R95. -/
def Cfg.default : Cfg where
  isaLevel := .w65c02s
  brkMode := .architectural
  cycleBits := 64
  ramStart := 0x0000
  ramSize := 0x8000
  ramBanks := 1
  devStart := 0x8000
  devEnd := 0x8FFF
  aciaBase := 0x8000
  vias := [⟨0x8010, .irq⟩, ⟨0x8020, .irq⟩]
  bromStart := 0xC000
  bromSize := 0x2000
  bromBanks := 1
  sromStart := 0xE000
  sromSize := 0x2000
  strictUnmapped := false
  viaT2Reloads := true

/-- Address `a` lies in the window of `len` addresses from `base`. -/
def inWindow (a base len : Nat) : Bool := decide (base ≤ a) && decide (a < base + len)

/-- A window as (base, length). -/
abbrev Window := Nat × Nat

/-- The window lies inside 0x0000..0xFFFF (R5). DESIGN CHOICE (log 19): R5 says nothing of a window of size 0; it is
accepted where its base is at most 0x10000 and refused above. -/
def Window.fits (w : Window) : Bool := decide (w.1 + w.2 ≤ 0x10000)

/-- Two windows share no address (R5); a window of size 0 shares none, wherever it lies (log 19). -/
def Window.disjoint (v w : Window) : Bool :=
  decide (v.2 = 0) || decide (w.2 = 0) || decide (v.1 + v.2 ≤ w.1) || decide (w.1 + w.2 ≤ v.1)

/-- Every two windows of a list are disjoint. -/
def windowsDisjoint : List Window → Bool
  | [] => true
  | w :: ws => ws.all (Window.disjoint w) && windowsDisjoint ws

/-- The ACIA window and the VIA windows (R84 (1), (2)). -/
def Cfg.deviceWindows (c : Cfg) : List Window := (c.aciaBase, 4) :: c.vias.map fun v => (v.base, 16)

/-- The four regions that must be pairwise disjoint (R5). -/
def Cfg.regions (c : Cfg) : List Window :=
  [(c.devStart, c.devEnd + 1 - c.devStart), (c.sromStart, c.sromSize), (c.bromStart, c.bromSize), (c.ramStart, c.ramSize)]

/-- A configuration is well-formed (R5). -/
def Cfg.wf (c : Cfg) : Bool :=
  c.regions.all Window.fits && c.deviceWindows.all Window.fits &&
  c.deviceWindows.all (fun w => decide (c.devStart ≤ w.1) && decide (w.1 + w.2 ≤ c.devEnd + 1)) &&
  windowsDisjoint c.deviceWindows && windowsDisjoint c.regions &&
  decide (1 ≤ c.ramBanks) && decide (1 ≤ c.bromBanks) && decide (1 ≤ c.cycleBits)

/-- What an address decodes to (R84); the number is the offset inside the window. -/
inductive Target where
  | acia (r : Nat)
  | via (i r : Nat)
  | hole
  | srom (o : Nat)
  | brom (o : Nat)
  | ram (o : Nat)
  | fallback
  deriving DecidableEq, Repr

/-- The first VIA window that holds the address, indexes ascending from `i` (R84 (2)). -/
def viaTarget (a : Nat) (i : Nat) : List ViaSlot → Option Target
  | [] => none
  | v :: vs => if inWindow a v.base 16 then some (.via i (a - v.base)) else viaTarget a (i + 1) vs

/-- `Decode(a)` (R84): the first match in the fixed order. -/
def target (c : Cfg) (addr : Addr) : Target :=
  let a := addr.toNat
  if inWindow a c.aciaBase 4 then .acia (a - c.aciaBase)
  else match viaTarget a 0 c.vias with
    | some t => t
    | none =>
      if decide (c.devStart ≤ a) && decide (a ≤ c.devEnd) then .hole
      else if inWindow a c.sromStart c.sromSize then .srom (a - c.sromStart)
      else if inWindow a c.bromStart c.bromSize then .brom (a - c.bromStart)
      else if inWindow a c.ramStart c.ramSize then .ram (a - c.ramStart)
      else .fallback

/-- A read of the address raises no fault (R92): reads fault in the device hole, and in the fallback region of
a strict build. -/
def readable (c : Cfg) (a : Addr) : Bool :=
  match target c a with
  | .hole => false
  | .fallback => !c.strictUnmapped
  | _ => true

/-- A write of the address raises no fault whatever the value (R92): writes fault in the device hole, in ROM and
in the fallback region of a strict build, and may fault at the ACIA's command and control registers. -/
def writable (c : Cfg) (a : Addr) : Bool :=
  match target c a with
  | .acia r => decide (r = 0) || decide (r = 1)
  | .via _ _ => true
  | .hole => false
  | .srom _ => false
  | .brom _ => false
  | .ram _ => true
  | .fallback => !c.strictUnmapped

/-- The address decodes to banked RAM. -/
def inRam (c : Cfg) (a : Addr) : Bool :=
  match target c a with
  | .ram _ => true
  | _ => false

end Sys2Proof
end

