-- ==== Sys2Proof/Machine/Memory.lean ====
section
/-! DEFINITION. Storage as a list of (address, byte) pairs in one canonical form: addresses strictly rising and
no byte 0x00 listed, because an unlisted byte reads 0x00, which is what ROM before loading (10_state R32) and RAM
after power-on and reset (R33) hold. The address of a byte in a banked device is bank-major (R113). -/

namespace Sys2Proof

/-- Storage: the bytes that are not 0x00, by rising address. -/
abbrev Memory := List Host.Cell

/-- What an unlisted address reads as (R32, R33). -/
def unlisted : Byte := 0x00

/-- The byte at an address. -/
def Memory.read : Memory → Nat → Byte
  | [], _ => unlisted
  | (k, v) :: m, a => if a = k then v else Memory.read m a

/-- Store a byte at an address; storing what an unlisted address reads as takes the entry out. -/
def Memory.write : Memory → Nat → Byte → Memory
  | [], a, x => if x = unlisted then [] else [(a, x)]
  | (k, v) :: m, a, x =>
    if a < k then (if x = unlisted then (k, v) :: m else (a, x) :: (k, v) :: m)
    else if a = k then (if x = unlisted then m else (k, x) :: m)
    else (k, v) :: Memory.write m a x

/-- Canonical from address `n` on. -/
def Memory.wfFrom : Nat → Memory → Bool
  | _, [] => true
  | n, (k, v) :: m => decide (n ≤ k) && v != unlisted && Memory.wfFrom (k + 1) m

/-- The canonical form: addresses strictly rising, no entry equal to what an unlisted address reads as. -/
def Memory.wf (m : Memory) : Bool := Memory.wfFrom 0 m

/-- Every listed address lies below `n`. -/
def Memory.below (n : Nat) (m : Memory) : Bool := m.all fun c => decide (c.1 < n)

/-- Store bytes at consecutive addresses from `a`. -/
def Memory.writeAll (m : Memory) (a : Nat) : List Byte → Memory
  | [] => m
  | b :: bs => Memory.writeAll (Memory.write m a b) (a + 1) bs

end Sys2Proof
end

