-- ==== Sys2Proof/Machine/State.lean ====
section
/-! DEFINITION. The state of the machine (10_state R20 to R37), the faults it can raise (60_exceptions R402 to
R413), the refusals of the model, and the state after reset (R38). -/

namespace Sys2Proof.Machine

/-- The status flags, seven booleans (R24). -/
structure Flags where
  n : Bool
  v : Bool
  b : Bool
  d : Bool
  i : Bool
  z : Bool
  c : Bool
  deriving DecidableEq, Repr

/-- `mode` (R29). -/
inductive Mode where
  | run
  | wait
  | stop
  deriving DecidableEq, Repr

/-- Read or write, the `info` of `DeviceHole` and `Unmapped` (R407, R408). -/
inductive Access where
  | read
  | write
  deriving DecidableEq, Repr

/-- `what` of a `ConfigError` (R409). -/
inductive ConfigWhat where
  /-- ACIA command write with bit 5 set (R508) -/
  | parityUnsupported
  /-- ACIA control write with baud code 0000 (R509) -/
  | unsupportedBaud
  /-- an image longer than its bank or device (R112, R113); host operations only -/
  | imageSize
  /-- a bank number outside the device (R112, R114); host operations only -/
  | badBank
  /-- an ill-formed `Cfg` (R5); construction only -/
  | badMap
  deriving DecidableEq, Repr

/-- What the spec calls a fault (R402), with its info. A step that raises one ends in a NEXT state whose `fault`
latch holds it and whose other fields are as far as the instruction got (R403; log 2): no step answers
`Outcome.fault`. SAFE: the machine goes nowhere the spec's machine does not go. -/
inductive Fault where
  /-- `IllegalOpcode(opcode, addr)` (R405): raised by the instruction `illegal`. Safe. -/
  | illegalOpcode (opcode : Byte) (addr : Addr)
  /-- `RomWrite(addr, value)` (R406): raised by any write into a ROM window. Safe. -/
  | romWrite (addr : Addr) (value : Byte)
  /-- `DeviceHole(addr, read|write)` (R407): raised by any access of an unclaimed device-area address. Safe. -/
  | deviceHole (addr : Addr) (access : Access)
  /-- `Unmapped(addr, read|write)` (R408): raised by any access of a fallback address of a strict build. Safe. -/
  | unmapped (addr : Addr) (access : Access)
  /-- `ConfigError(what, value)` (R409): raised by ACIA command and control writes, returned by host operations.
  Safe. What `value` holds for a host operation is log 13. -/
  | configError (what : ConfigWhat) (value : Nat)
  /-- `Break(addr)` (R413): raised by BRK when `BRK_MODE = fatal`. Safe. -/
  | brk (addr : Addr)
  deriving DecidableEq, Repr

/-- Why a step is refused. -/
inductive Refusal where
  /-- exec's arm of an instruction that has no meaning yet; no arm of this model. Safe. -/
  | notModelled (mnemonic : String)
  /-- `Refused(fault)` (R414): raised by `step` while a fault is latched; nothing changes. Safe: it is the spec's
  own answer. -/
  | latched (fault : Fault)
  deriving DecidableEq, Repr

/-- The storage of a ROM or RAM device (R32, R33): the bytes of all banks at bank-major addresses
(bank `b`, offset `o` at `b * bankSize + o`), and `currentBank`. -/
structure Bank where
  cells : Memory
  bank  : Nat
  deriving DecidableEq, Repr

/-- One VIA (R34, R35). -/
structure Via where
  iora : Byte
  iorb : Byte
  ddra : Byte
  ddrb : Byte
  t1c  : BitVec 16
  t1l  : BitVec 16
  t2c  : BitVec 16
  t2l  : BitVec 16
  sr   : Byte
  pcr  : Byte
  /-- bits 6..0; bit 7 is derived -/
  ifr  : BitVec 7
  ier  : BitVec 7
  t1FreeRunning    : Bool
  t2CountsPulses   : Bool
  latchingEnabled  : Bool
  pb7OutputEnabled : Bool
  t1Active : Bool
  t2Active : Bool
  deriving DecidableEq, Repr

/-- Stop bits of `PortConfig` (R516). -/
inductive StopBits where
  | one
  | onePointFive
  | two
  deriving DecidableEq, Repr

/-- Parity of `PortConfig`: always none (R508, R516). -/
inductive Parity where
  | none
  deriving DecidableEq, Repr

/-- The host serial-port parameters (R37, R516). -/
structure PortConfig where
  baud     : Nat
  dataBits : Nat
  stopBits : StopBits
  parity   : Parity
  deriving DecidableEq, Repr

/-- The ACIA (R37). `port = none` is `unconfigured`. -/
structure Acia where
  cmd : Byte
  ctl : Byte
  irqFlag : Bool
  rxFull  : Bool
  overrun : Bool
  rxd : Byte
  dsrAsserted : Bool
  dcdAsserted : Bool
  port : Option PortConfig
  tx   : List Byte
  deriving DecidableEq, Repr

/-- The state of the machine (R20 to R37). Two fields are the model's own: `cfg` holds the configuration, which
nothing changes (log 1), and `draws` counts the free values used (U3, log 5). -/
structure State where
  cfg : Cfg
  a  : Byte
  x  : Byte
  y  : Byte
  sp : Byte
  pc : Addr
  p  : Flags
  cycles : Nat
  running : Bool
  pendingNmi : Bool
  pendingIrq : Bool
  mode : Mode
  fault : Option Fault
  ram  : Bank
  brom : Bank
  srom : Bank
  vias : List Via
  acia : Acia
  draws : Nat
  deriving DecidableEq, Repr

/-- The flags after reset: I alone is true (R38). -/
def Flags.reset : Flags := ⟨false, false, false, false, true, false, false⟩

/-- A VIA after reset: zero or false throughout (R34, R453). -/
def Via.reset : Via :=
  { iora := 0, iorb := 0, ddra := 0, ddrb := 0, t1c := 0, t1l := 0, t2c := 0, t2l := 0, sr := 0, pcr := 0
    ifr := 0, ier := 0, t1FreeRunning := false, t2CountsPulses := false, latchingEnabled := false
    pb7OutputEnabled := false, t1Active := false, t2Active := false }

/-- The ACIA at power-on, which is also its state after a reset that follows (R37, R503). -/
def Acia.powerOn : Acia :=
  { cmd := 0, ctl := 0, irqFlag := false, rxFull := false, overrun := false, rxd := 0
    dsrAsserted := false, dcdAsserted := false, port := none, tx := [] }

/-- The machine right after power-on and `reset()` (R38, R540) with the default configuration and no ROM image
loaded: ROM reads 0x00, so the reset vector is 0x0000 (R541, R546; vector RST2). `Machine/Reset.lean` has the
reset operation itself. -/
def State.reset : State where
  cfg := Cfg.default
  a := 0x00
  x := 0x00
  y := 0x00
  sp := 0xFD
  pc := 0x0000
  p := Flags.reset
  cycles := 0
  running := false
  pendingNmi := false
  pendingIrq := false
  mode := .run
  fault := none
  ram := ⟨[], 0⟩
  brom := ⟨[], 0⟩
  srom := ⟨[], 0⟩
  vias := [Via.reset, Via.reset]
  acia := Acia.powerOn
  draws := 0

end Sys2Proof.Machine
end

