-- ==== Sys2Proof/Machine/Flags.lean ====
section
/-! DEFINITION. Flag computations: the packed status byte (10_state R25), `SetNZ` (R24), the compares, and the
binary and decimal adders (42_arithmetic_logic R240 to R242). -/

namespace Sys2Proof.Machine

/-- `SetNZ(v)` (R24). -/
def Flags.setNZ (f : Flags) (v : Byte) : Flags := { f with n := bit v 7, z := v == 0 }

/-- `PByte(b)` (R25): N V 1 b D I Z C in bits 7..0. -/
def Flags.pByte (f : Flags) (b : Bool) : Byte :=
  BitVec.ofNat 8 (f.n.toNat * 128 + f.v.toNat * 64 + 32 + b.toNat * 16 + f.d.toNat * 8 + f.i.toNat * 4
    + f.z.toNat * 2 + f.c.toNat)

/-- Unpack a pulled byte (R25): bits 5 and 4 are ignored, the stored B keeps its value. -/
def Flags.unpack (f : Flags) (v : Byte) : Flags :=
  { n := bit v 7, v := bit v 6, b := f.b, d := bit v 3, i := bit v 2, z := bit v 1, c := bit v 0 }

/-- The flags of a compare of register r with M (R248 to R250): C is the unsigned `r >= M`, N and Z those of the
8-bit difference. -/
def Flags.compare (f : Flags) (r m : Byte) : Flags :=
  ({ f with c := decide (m.toNat ≤ r.toNat) } : Flags).setNZ (r - m)

/-- What an adder returns: result, C, V (R240 to R242). -/
structure Sum where
  r : Byte
  c : Bool
  v : Bool
  deriving DecidableEq, Repr

/-- `((~(a ^ m)) & (a ^ s) & 0x80) != 0`: the operands have one sign, the sum the other (R240, R241). -/
def signOverflow (a m s : Byte) : Bool := (~~~(a ^^^ m) &&& (a ^^^ s) &&& 0x80) != 0

/-- `AddBinary(a, m, c)` (R240). -/
def addBinary (a m : Byte) (c : Bool) : Sum :=
  let s := a.toNat + m.toNat + c.toNat
  { r := BitVec.ofNat 8 s, c := decide (255 < s), v := signOverflow a m (BitVec.ofNat 8 s) }

/-- The low-digit sum of `AddDecimal` with its fix-up (R241). -/
def decimalLow (a m : Byte) (c : Bool) : Nat :=
  let al := a.toNat % 16 + m.toNat % 16 + c.toNat
  if 0x0A ≤ al then (al + 0x06) % 16 + 0x10 else al

/-- `AddDecimal(a, m, c)` (R241). -/
def addDecimal (a m : Byte) (c : Bool) : Sum :=
  let s := (a.toNat / 16) * 16 + (m.toNat / 16) * 16 + decimalLow a m c
  let t := if 0xA0 ≤ s then s + 0x60 else s
  { r := BitVec.ofNat 8 t, c := decide (0x100 ≤ t), v := signOverflow a m (BitVec.ofNat 8 s) }

/-- `SubDecimal(a, m, c)` (R242). -/
def subDecimal (a m : Byte) (c : Bool) : Sum :=
  let b := addBinary a (m ^^^ 0xFF) c
  let al : Int := (a.toNat % 16 : Nat) - (m.toNat % 16 : Nat) + c.toNat - 1
  let t : Int := a.toNat - m.toNat + c.toNat - 1
  let t1 := if t < 0 then t - 0x60 else t
  let t2 := if al < 0 then t1 - 0x06 else t1
  { r := BitVec.ofInt 8 t2, c := b.c, v := b.v }

/-- Both nibbles are decimal digits (R241). -/
def validBcd (v : Byte) : Bool := decide (v.toNat % 16 ≤ 9) && decide (v.toNat / 16 ≤ 9)

/-- The flags after ADC or SBC with the sum `r` (R243, R244). -/
def Flags.afterSum (f : Flags) (r : Sum) : Flags := ({ f with c := r.c, v := r.v } : Flags).setNZ r.r

/-- The flags that U3 leaves at any value: N, V, Z, C from bits 8, 9, 10, 11 of a free value; B, D and I stay. -/
def Flags.afterFree (f : Flags) (w : BitVec 12) : Flags :=
  { f with n := w.getLsbD 8, v := w.getLsbD 9, z := w.getLsbD 10, c := w.getLsbD 11 }

end Sys2Proof.Machine
end

