-- ==== Sys2Proof/Machine/Acia.lean ====
section
/-! DEFINITION. The ACIA: register accesses (62_acia R506 to R516) and its host events (R520, R521). -/

namespace Sys2Proof.Machine

/-- `Status()` (R510). -/
def Acia.status (d : Acia) : Byte :=
  BitVec.ofNat 8 (d.irqFlag.toNat * 128 + (1 - d.dsrAsserted.toNat) * 64 + d.dcdAsserted.toNat * 32 + 16
    + d.rxFull.toNat * 8 + d.overrun.toNat * 4)

/-- The baud table (R511); code 0 is rejected before it is looked up. -/
def baudTable : List Nat := [0, 50, 75, 110, 135, 150, 300, 600, 1200, 1800, 2400, 3600, 4800, 7200, 9600, 19200]

/-- The baud code `v[3:0]`. -/
def baudCode (v : Byte) : Nat := v.toNat % 16

/-- The word length of `v[6:5]` (R505). -/
def wordLength (v : Byte) : Nat := 8 - v.toNat / 32 % 4

/-- `PortConfig(v)` (R516). -/
def portConfig (v : Byte) : PortConfig where
  baud := baudTable.getD (baudCode v) 0
  dataBits := wordLength v
  stopBits := if bit v 7 then (if wordLength v = 5 then .onePointFive else .two) else .one
  parity := .none

/-- `AciaRead(r)` (R501, R506 to R509): the byte read and the ACIA after the read's side effect. -/
def Acia.read (d : Acia) : Nat → Byte × Acia
  | 0 => (d.rxd, { d with irqFlag := false, rxFull := false, overrun := false })
  | 1 => (d.status, d)
  | 2 => (d.cmd, d)
  | _ => (d.ctl, d)

/-- `AciaWrite(r, v)` (R501, R506 to R509): the ACIA after the write, or the fault of a rejected value. -/
def Acia.write (d : Acia) (r : Nat) (v : Byte) : Except Fault Acia :=
  match r with
  | 0 => .ok { d with tx := d.tx ++ [v] }
  | 1 => .ok d
  | 2 => if bit v 5 then .error (.configError .parityUnsupported v.toNat) else .ok { d with cmd := v }
  | _ =>
    if baudCode v = 0 then .error (.configError .unsupportedBaud v.toNat)
    else .ok { d with ctl := v, port := some (portConfig v) }

/-- `AciaReceive(b)` (R520): the ACIA after it, and whether it requests an IRQ. -/
def Acia.receive (d : Acia) (b : Byte) : Acia × Bool :=
  let e := if d.rxFull then { d with overrun := true } else { d with rxd := b, rxFull := true }
  if bit d.cmd 1 then (e, false) else ({ e with irqFlag := true }, true)

/-- ACIA `reset()` (R503). -/
def Acia.reset (d : Acia) : Acia :=
  { d with cmd := 0, ctl := 0, rxd := 0, irqFlag := false, rxFull := false, overrun := false, port := none }

end Sys2Proof.Machine
end

