-- ==== Sys2Proof/Machine/Via.lean ====
section
/-! DEFINITION. The VIA: register accesses (61_via R458 to R474) and the clock edge (R480 to R482). A request to the
CPU is a Bool beside the new VIA; which line it drives is configuration (R456, R418). -/

namespace Sys2Proof.Machine

/-- The IFR and IER bits (R455). -/
def ifrCa2 : Nat := 0
def ifrCa1 : Nat := 1
def ifrCb2 : Nat := 3
def ifrCb1 : Nat := 4
def ifrT2 : Nat := 5
def ifrT1 : Nat := 6

/-- One bit of a 7-bit register. -/
def bit7 (n : Nat) : BitVec 7 := 1#7 <<< n

/-- `IFR[n] <- 0`. -/
def Via.clearFlag (v : Via) (n : Nat) : Via := { v with ifr := v.ifr &&& ~~~(bit7 n) }

/-- `SetFlag` (R456): the VIA after it, and whether it requests the CPU. -/
def Via.setFlag (v : Via) (n : Nat) : Via × Bool := ({ v with ifr := v.ifr ||| bit7 n }, v.ier.getLsbD n)

/-- Acknowledge B (R460): CB1, and CB2 unless PCR[7:5] is the pulse code 101. -/
def Via.ackB (v : Via) : Via :=
  let w := v.clearFlag ifrCb1
  if v.pcr.extractLsb' 5 3 = 0b101#3 then w else w.clearFlag ifrCb2

/-- Acknowledge A (R461): CA1, and CA2 unless PCR[3:1] is the pulse code 101. -/
def Via.ackA (v : Via) : Via :=
  let w := v.clearFlag ifrCa1
  if v.pcr.extractLsb' 1 3 = 0b101#3 then w else w.clearFlag ifrCa2

/-- ACR as read (R470). -/
def Via.acr (v : Via) : Byte :=
  BitVec.ofNat 8 (v.pb7OutputEnabled.toNat * 128 + v.t1FreeRunning.toNat * 64 + v.t2CountsPulses.toNat * 32
    + v.latchingEnabled.toNat * 2 + v.latchingEnabled.toNat)

/-- ACR write (R471). -/
def Via.setAcr (v : Via) (x : Byte) : Via :=
  { v with
    pb7OutputEnabled := bit x 7
    t1FreeRunning := bit x 6
    t2CountsPulses := bit x 5
    latchingEnabled := bit x 1 || bit x 0 }

/-- IFR as read (R472): bit 7 is the OR of the enabled flags. -/
def Via.ifrByte (v : Via) : Byte := BitVec.ofBool ((v.ifr &&& v.ier) != 0) ++ v.ifr

/-- IER as read (R474): bit 7 reads 1. -/
def Via.ierByte (v : Via) : Byte := 1#1 ++ v.ier

/-- IER write (R474): bit 7 says set or clear. -/
def Via.setIer (v : Via) (x : Byte) : Via :=
  if bit x 7 then { v with ier := v.ier ||| x.setWidth 7 } else { v with ier := v.ier &&& ~~~(x.setWidth 7) }

/-- T1C-L read side effect (R464). -/
def Via.ackT1 (v : Via) : Via := if v.latchingEnabled then v else v.clearFlag ifrT1

/-- T2C-L read side effect (R467). -/
def Via.ackT2 (v : Via) : Via := if v.latchingEnabled then v else v.clearFlag ifrT2

/-- T1C-H write (R465): the byte goes into the high latch, the counter is loaded from the latch and armed. -/
def Via.loadT1 (v : Via) (x : Byte) : Via :=
  { v with t1l := join x (lo v.t1l), t1c := join x (lo v.t1l), t1Active := true }.clearFlag ifrT1

/-- T2C-H write (R468). -/
def Via.loadT2 (v : Via) (x : Byte) : Via :=
  { v with t2l := join x (lo v.t2l), t2c := join x (lo v.t2l), t2Active := true }.clearFlag ifrT2

/-- `ViaRead(i, r)` (R451, R458): the byte read and the VIA after the read's side effect. -/
def Via.read (v : Via) : Nat → Byte × Via
  | 0 => (v.iorb &&& ~~~v.ddrb, v.ackB)
  | 1 => (v.iora &&& ~~~v.ddra, v.ackA)
  | 2 => (v.ddrb, v)
  | 3 => (v.ddra, v)
  | 4 => (lo v.t1c, v.ackT1)
  | 5 => (hi v.t1c, v)
  | 6 => (lo v.t1l, v)
  | 7 => (hi v.t1l, v)
  | 8 => (lo v.t2c, v.ackT2)
  | 9 => (hi v.t2c, v)
  | 10 => (v.sr, v)
  | 11 => (v.acr, v)
  | 12 => (v.pcr, v)
  | 13 => (v.ifrByte, v)
  | 14 => (v.ierByte, v)
  | _ => (v.iora &&& ~~~v.ddra, v)

/-- `ViaWrite(i, r, x)` (R451, R458). -/
def Via.write (v : Via) (r : Nat) (x : Byte) : Via :=
  match r with
  | 0 => { v with iorb := x }.ackB
  | 1 => { v with iora := x }.ackA
  | 2 => { v with ddrb := x }
  | 3 => { v with ddra := x }
  | 4 => { v with t1l := join (hi v.t1l) x }
  | 5 => v.loadT1 x
  | 6 => { v with t1l := join (hi v.t1l) x }
  | 7 => { v with t1l := join x (lo v.t1l) }
  | 8 => { v with t2l := join (hi v.t2l) x }
  | 9 => v.loadT2 x
  | 10 => { v with sr := x }
  | 11 => v.setAcr x
  | 12 => { v with pcr := x }
  | 13 => { v with ifr := v.ifr &&& ~~~(x.setWidth 7) }
  | 14 => v.setIer x
  | _ => { v with iora := x }

/-- `IORB[7] <- 1 - IORB[7]` while PB7 output is enabled (R481). -/
def Via.togglePb7 (v : Via) : Via := if v.pb7OutputEnabled then { v with iorb := v.iorb ^^^ 0x80 } else v

/-- Timer 1 on a clock edge (R481), and whether it requests the CPU. -/
def Via.edgeT1 (v : Via) : Via × Bool :=
  if v.t1Active then
    if v.t1c = 0 then
      let f := v.setFlag ifrT1
      let w := f.1.togglePb7
      (if v.t1FreeRunning then { w with t1c := v.t1l } else { w with t1c := 0xFFFF, t1Active := false }, f.2)
    else ({ v with t1c := v.t1c - 1 }, false)
  else (v, false)

/-- Timer 2 on a clock edge (R482), and whether it requests the CPU. -/
def Via.edgeT2 (reloads : Bool) (v : Via) : Via × Bool :=
  if v.t2Active && !v.t2CountsPulses then
    if v.t2c = 0 then
      let f := v.setFlag ifrT2
      (if reloads then { f.1 with t2c := v.t2l } else { f.1 with t2c := 0xFFFF, t2Active := false }, f.2)
    else ({ v with t2c := v.t2c - 1 }, false)
  else (v, false)

/-- `ViaClockEdge(i)` (R480): timer 1, then timer 2. -/
def Via.clockEdge (reloads : Bool) (v : Via) : Via × Bool :=
  let e1 := v.edgeT1
  let e2 := e1.1.edgeT2 reloads
  (e2.1, e1.2 || e2.2)

/-- The control lines of `ViaControlEdge` (R485). -/
inductive ControlLine where
  | ca1
  | ca2
  | cb1
  | cb2
  deriving DecidableEq, Repr

/-- The IFR bit of a control line (R485). -/
def ControlLine.flag : ControlLine → Nat
  | .ca1 => ifrCa1
  | .ca2 => ifrCa2
  | .cb1 => ifrCb1
  | .cb2 => ifrCb2

end Sys2Proof.Machine
end

