-- ==== Sys2Proof/Machine/Ops.lean ====
section
/-! DEFINITION. The named operations of 00_scope R7: the clock tick, the four access paths, dispatch, fetch,
push and pull, taking an interrupt and returning from one, and raising a fault. -/

namespace Sys2Proof.Machine

/-! ## Updates of one field -/

def State.setA (s : State) (v : Byte) : State := { s with a := v }
def State.setX (s : State) (v : Byte) : State := { s with x := v }
def State.setY (s : State) (v : Byte) : State := { s with y := v }
def State.setSp (s : State) (v : Byte) : State := { s with sp := v }
def State.setPc (s : State) (v : Addr) : State := { s with pc := v }
def State.setP (s : State) (v : Flags) : State := { s with p := v }
def State.setMode (s : State) (v : Mode) : State := { s with mode := v }
def State.setCycles (s : State) (v : Nat) : State := { s with cycles := v }
def State.setRunning (s : State) (v : Bool) : State := { s with running := v }
def State.setPendingNmi (s : State) (v : Bool) : State := { s with pendingNmi := v }
def State.setPendingIrq (s : State) (v : Bool) : State := { s with pendingIrq := v }
def State.setRam (s : State) (v : Bank) : State := { s with ram := v }
def State.setBrom (s : State) (v : Bank) : State := { s with brom := v }
def State.setSrom (s : State) (v : Bank) : State := { s with srom := v }
def State.setVias (s : State) (v : List Via) : State := { s with vias := v }
def State.setAcia (s : State) (v : Acia) : State := { s with acia := v }
def State.setDraws (s : State) (v : Nat) : State := { s with draws := v }

/-- `raise Fault(kind, info)` sets the latch (R402). -/
def State.latch (s : State) (f : Fault) : State := { s with fault := some f }

/-- `SetNZ(v)` on the state (R24). -/
def State.setNZ (s : State) (v : Byte) : State := s.setP (s.p.setNZ v)

/-! ## The sequencing of the spec's pseudocode -/

/-- A piece of pseudocode (R7): it ends with a value and a state, or it raises a fault and leaves the state as far
as it got (R403). -/
abbrev Exec := EStateM Fault State

/-- `raise Fault(kind, info)`: nothing after it happens, everything before it stays (R403). -/
def raise {α : Type} (f : Fault) : Exec α := fun s => .error f s

/-- Look at the state. -/
def look {α : Type} (f : State → α) : Exec α := fun s => .ok (f s) s

/-- Change the state. -/
def update (f : State → State) : Exec Unit := fun s => .ok () (f s)

/-- The end of an instruction: its next state, with the fault latched if it raised one (R402, R403). -/
def finish (r : EStateM.Result Fault State Unit) : Host.Outcome State Fault Refusal :=
  match r with
  | .ok _ s => .next s
  | .error f s => .next (s.latch f)

/-- Run an instruction's pseudocode to its end. -/
def run (x : Exec Unit) (s : State) : Host.Outcome State Fault Refusal := finish (x s)

/-! ## The clock -/

/-- `pendingIRQ <- true` or `pendingNMI <- true`, whichever the line is (R418, R456). -/
def State.request (s : State) : IrqLine → State
  | .irq => s.setPendingIrq true
  | .nmi => s.setPendingNmi true

/-- A request of VIA `i`, made when `q` (R456). -/
def State.viaRequest (s : State) (i : Nat) (q : Bool) : State :=
  if q then
    match s.cfg.vias[i]? with
    | some slot => s.request slot.line
    | none => s
  else s

/-- The clock edge of VIA `i` (R480). -/
def State.clockVia (s : State) (i : Nat) : State :=
  match s.vias[i]? with
  | none => s
  | some v =>
    let e := v.clockEdge s.cfg.viaT2Reloads
    (s.setVias (s.vias.set i e.1)).viaRequest i e.2

/-- The counter's next value (R26). -/
def nextCycle (c : Cfg) (n : Nat) : Nat := (n + 1) % 2 ^ c.cycleBits

/-- `Tick()` (R86): the counter, then one clock edge of every VIA in ascending index. -/
def State.tick (s : State) : State :=
  (List.range s.cfg.vias.length).foldl State.clockVia (s.setCycles (nextCycle s.cfg s.cycles))

/-- `Internal()` (R87): a cycle without a bus access. -/
def internal : Exec Unit := update State.tick

/-! ## Dispatch -/

/-- The bank-major address of offset `o` in the current bank (R110, R116). -/
def Bank.index (b : Bank) (size o : Nat) : Nat := b.bank * size + o

/-- The byte at an offset of the current bank. -/
def Bank.byte (b : Bank) (size o : Nat) : Byte := Memory.read b.cells (b.index size o)

/-- Store a byte at an offset of the current bank; the other banks are untouched (R117). -/
def Bank.store (b : Bank) (size o : Nat) (v : Byte) : Bank :=
  { b with cells := Memory.write b.cells (b.index size o) v }

/-- VIA `i`; a VIA that the configuration has and the state lacks (in no state a run reaches) is a reset one
(log 17). -/
def State.via (s : State) (i : Nat) : Via := s.vias.getD i Via.reset

/-- `Dispatch_read(Decode(a), a)` (R92). -/
def dispatchRead (a : Addr) : Exec Byte := fun s =>
  match target s.cfg a with
  | .acia r => .ok (s.acia.read r).1 (s.setAcia (s.acia.read r).2)
  | .via i r => .ok ((s.via i).read r).1 (s.setVias (s.vias.set i ((s.via i).read r).2))
  | .hole => .error (.deviceHole a .read) s
  | .srom o => .ok (s.srom.byte s.cfg.sromSize o) s
  | .brom o => .ok (s.brom.byte s.cfg.bromSize o) s
  | .ram o => .ok (s.ram.byte s.cfg.ramSize o) s
  | .fallback => if s.cfg.strictUnmapped then .error (.unmapped a .read) s else .ok 0x00 s

/-- `Dispatch_write(Decode(a), a, v)` (R92). -/
def dispatchWrite (a : Addr) (v : Byte) : Exec Unit := fun s =>
  match target s.cfg a with
  | .acia r =>
    match s.acia.write r v with
    | .ok d => .ok () (s.setAcia d)
    | .error f => .error f s
  | .via i r => .ok () (s.setVias (s.vias.set i ((s.via i).write r v)))
  | .hole => .error (.deviceHole a .write) s
  | .srom _ => .error (.romWrite a v) s
  | .brom _ => .error (.romWrite a v) s
  | .ram o => .ok () (s.setRam (s.ram.store s.cfg.ramSize o v))
  | .fallback => if s.cfg.strictUnmapped then .error (.unmapped a .write) s else .ok () s

/-- `BusRead(a)` (R88): the tick comes before the dispatch. -/
def busRead (a : Addr) : Exec Byte := do
  internal
  dispatchRead a

/-- `BusWrite(a, v)` (R89). -/
def busWrite (a : Addr) (v : Byte) : Exec Unit := do
  internal
  dispatchWrite a v

/-- `ReadNoCycle(a)` (R90). -/
def readNoCycle (a : Addr) : Exec Byte := dispatchRead a

/-- `WriteNoCycle(a, v)` (R91). -/
def writeNoCycle (a : Addr) (v : Byte) : Exec Unit := dispatchWrite a v

/-- The byte that storage holds at an address: RAM and ROM, and the 0x00 of the fallback region (R93); `none` where
no memory answers: the ACIA, the VIAs, the device hole, and the fallback region of a strict build. A look without any
effect, for statements. -/
def State.memByte (s : State) (a : Addr) : Option Byte :=
  match target s.cfg a with
  | .srom o => some (s.srom.byte s.cfg.sromSize o)
  | .brom o => some (s.brom.byte s.cfg.bromSize o)
  | .ram o => some (s.ram.byte s.cfg.ramSize o)
  | .fallback => if s.cfg.strictUnmapped then none else some 0x00
  | .acia _ => none
  | .via _ _ => none
  | .hole => none

/-! ## Fetch -/

/-- `Fetch()` (R141). -/
def fetch : Exec Byte := do
  let pc ← look State.pc
  let v ← busRead pc
  update fun s => s.setPc (s.pc + 1)
  return v

/-- The `Fetch()` of an operand byte whose value the decoded instruction carries: the bus access, its cycle and its
side effects are those of `Fetch()`, and the value is the instruction's. `step` decodes the very bytes these fetches
return (log 3). -/
def operandByte (b : Byte) : Exec Byte := do
  let _ ← fetch
  return b

/-- The two fetches of a 16-bit operand, low byte first (R143, R175). -/
def operandAddr (a : Addr) : Exec Addr := do
  let _ ← fetch
  let _ ← fetch
  return a

/-! ## The stack (R360) -/

/-- `Push(v)`. -/
def push (v : Byte) : Exec Unit := do
  let sp ← look State.sp
  busWrite (stackAddr sp) v
  update fun s => s.setSp (s.sp - 1)

/-- `Pull()`. -/
def pull : Exec Byte := do
  update fun s => s.setSp (s.sp + 1)
  let sp ← look State.sp
  busRead (stackAddr sp)

/-! ## Interrupts -/

/-- The vectors (R421), fixed by decision D4 (log 6). -/
def vecNmi : Addr := 0xFFFA
def vecReset : Addr := 0xFFFC
def vecIrq : Addr := 0xFFFE

/-- `PC <- h ++ l` from the two bytes at a vector (R420, R421). -/
def loadVector (vec : Addr) : Exec Unit := do
  let l ← busRead vec
  let h ← busRead (vec + 1)
  update fun s => s.setPc (join h l)

/-- Taking an exception, what BRK (R336) and interrupt entry (R420) share: PC and P go to the stack, the pushed bit 4
telling BRK from an interrupt; I is set, D cleared; PC comes from the vector. -/
def takeException (breakBit : Bool) (vec : Addr) : Exec Unit := do
  let pc ← look State.pc
  push (hi pc)
  push (lo pc)
  let p ← look State.p
  push (p.pByte breakBit)
  update fun s => s.setP { s.p with i := true, d := false }
  loadVector vec

/-- `Enter(vec)` (R420). -/
def enterInterrupt (vec : Addr) : Exec Unit := do
  internal
  internal
  takeException false vec

/-- The return from an exception (R335, R422): P, then PC, from the stack. -/
def returnFromInterrupt : Exec Unit := do
  internal
  internal
  let v ← pull
  update fun s => s.setP (s.p.unpack v)
  let l ← pull
  let h ← pull
  update fun s => s.setPc (join h l)

end Sys2Proof.Machine
end

