-- ==== Sys2Proof/Machine/Operands.lean ====
section
/-! DEFINITION. Operand access (40_addressing): effective addresses with their bus sequences, and the three access
kinds. Everything starts after the opcode has been fetched. -/

namespace Sys2Proof.Machine

/-- The access kinds of R184, kind M cut in two by what R176 charges for an index: shifts, and INC and DEC. -/
inductive AccessKind where
  | read
  | write
  | shift
  | incDec
  deriving DecidableEq, Repr

/-- An index cycle is spent whether or not the access crosses a page (R176, R178). -/
def AccessKind.alwaysIndexes : AccessKind → Bool
  | .read | .shift => false
  | .write | .incDec => true

/-- The index cycle of `abx`, `aby` and `izy` (R176, R178). -/
def indexCycle (k : AccessKind) (b ea : Addr) : Exec Unit :=
  if k.alwaysIndexes || crossed b ea then internal else pure ()

/-- The two pointer bytes at zero-page address `p`, the second wrapping inside page zero (R177 to R179). -/
def readPointer (p : Byte) : Exec Addr := do
  let l ← busRead (zeroPage p)
  let h ← busRead (zeroPage (p + 1))
  return join h l

/-- Index a base address (R185) and spend the index cycle. -/
def indexed (k : AccessKind) (b : Addr) (i : Byte) : Exec Addr := do
  let ea := b + i.setWidth 16
  indexCycle k b ea
  return ea

/-- `EA(format, kind)` (R173 to R179). -/
def effectiveAddress (k : AccessKind) : Mem → Exec Addr
  | .zp z => do
    let z ← operandByte z
    return zeroPage z
  | .zpx z => do
    let z ← operandByte z
    internal
    let x ← look State.x
    return zeroPage (z + x)
  | .zpy z => do
    let z ← operandByte z
    internal
    let y ← look State.y
    return zeroPage (z + y)
  | .abs a => operandAddr a
  | .abx b => do
    let b ← operandAddr b
    let x ← look State.x
    indexed k b x
  | .aby b => do
    let b ← operandAddr b
    let y ← look State.y
    indexed k b y
  | .izx z => do
    let z ← operandByte z
    internal
    let x ← look State.x
    readPointer (z + x)
  | .izy z => do
    let z ← operandByte z
    let b ← readPointer z
    let y ← look State.y
    indexed k b y
  | .izp z => do
    let z ← operandByte z
    readPointer z

/-- `ReadOperand(format)` (R186). -/
def readOperand : ReadOp → Exec Byte
  | .imm v => operandByte v
  | .mem m => do
    let ea ← effectiveAddress .read m
    busRead ea

/-- Kind W (R184): `ea <- EA(format, W); BusWrite(ea, value)`. -/
def writeOperand (m : Mem) (value : State → Byte) : Exec Unit := do
  let ea ← effectiveAddress .write m
  let v ← look value
  busWrite ea v

/-- What a kind M instruction does to its operand: the new flags and the new byte, from the state and the byte. -/
abbrev Modification := State → Byte → Flags × Byte

/-- Evaluate `f(v)` (R187): its flags are written, its byte returned. -/
def applyModification (f : Modification) (v : Byte) : Exec Byte := do
  let r ← look fun s => f s v
  update fun s => s.setP r.1
  return r.2

/-- `Modify(format, f)` on memory (R187): read, internal cycle, write. -/
def modifyMem (k : AccessKind) (m : Mem) (f : Modification) : Exec Unit := do
  let ea ← effectiveAddress k m
  let v ← busRead ea
  internal
  let r ← applyModification f v
  busWrite ea r

/-- `Modify(format, f)` (R187); `acc` works on A. -/
def modifyOperand (k : AccessKind) : RmwOp → Modification → Exec Unit
  | .acc, f => do
    internal
    let v ← look State.a
    let r ← applyModification f v
    update fun s => s.setA r
  | .mem m, f => modifyMem k m f

end Sys2Proof.Machine
end

