-- ==== Sys2Proof/Machine/Arith.lean ====
section
/-! DEFINITION. Arithmetic, logic, compare, increment and decrement (42_arithmetic_logic R240 to R258). -/

namespace Sys2Proof.Machine

/-- The end of a binary ADC or SBC: A is the sum, C and V the adder's, N and Z the result's (R243, R244). -/
def State.putSum (s : State) (r : Sum) : State := (s.setA r.r).setP (s.p.afterSum r)

/-- The end of a decimal ADC or SBC on a nibble above 9: A, N, V, Z, C at any value (U3); the free value is used up
(log 5). -/
def State.putFree (s : State) : State :=
  let w := Config.freeDecimal s.draws
  ((s.setA (w.setWidth 8)).setP (s.p.afterFree w)).setDraws (s.draws + 1)

/-- The result of decimal ADC or SBC: the BCD sum `r` where both operands are BCD, a free value otherwise. -/
def State.putDecimal (s : State) (m : Byte) (r : Sum) : State :=
  if validBcd s.a && validBcd m then s.putSum r else s.putFree

/-- The common part of ADC and SBC (R243, R244): decimal mode spends one more cycle. -/
def addSub (o : ReadOp) (binary decimal : Byte → Byte → Bool → Sum) : Exec Unit := do
  let m ← readOperand o
  let d ← look fun s => s.p.d
  if d then do
    internal
    update fun s => s.putDecimal m (decimal s.a m s.p.c)
  else update fun s => s.putSum (binary s.a m s.p.c)

/-- The common part of AND, ORA, EOR (R245 to R247). -/
def logic (o : ReadOp) (f : Byte → Byte → Byte) : Exec Unit := do
  let m ← readOperand o
  update fun s => (s.setA (f s.a m)).setNZ (f s.a m)

/-- The common part of the compares (R248 to R250). -/
def compare (o : ReadOp) (reg : State → Byte) : Exec Unit := do
  let m ← readOperand o
  update fun s => s.setP (s.p.compare (reg s) m)

/-- The operand is immediate (R251). -/
def isImmediate : ReadOp → Bool
  | .imm _ => true
  | .mem _ => false

/-- The flags of BIT (R251): Z from A & M; N and V from the memory byte, and not at all in the immediate form. -/
def Flags.bitTest (f : Flags) (immediate : Bool) (a m : Byte) : Flags :=
  if immediate then { f with z := (a &&& m) == 0 } else { f with z := (a &&& m) == 0, n := bit m 7, v := bit m 6 }

/-- `f` of INC and DEC (R252, R253): the new byte, N and Z from it. -/
def stepBy (g : Byte → Byte) : Modification := fun s v => (s.p.setNZ (g v), g v)

/-- The common part of INX, INY, DEX, DEY (R254 to R257). -/
def stepRegister (get : State → Byte) (set : State → Byte → State) (g : Byte → Byte) : Exec Unit := do
  internal
  update fun s => (set s (g (get s))).setNZ (g (get s))

/-- ADC (R243). -/
def execAdc (o : ReadOp) (s : State) : Host.Outcome State Fault Refusal := run (addSub o addBinary addDecimal) s

/-- SBC (R244): binary subtraction is the addition of the complement. -/
def execSbc (o : ReadOp) (s : State) : Host.Outcome State Fault Refusal :=
  run (addSub o (fun a m c => addBinary a (m ^^^ 0xFF) c) subDecimal) s

/-- AND (R245). -/
def execAnd (o : ReadOp) (s : State) : Host.Outcome State Fault Refusal := run (logic o fun a m => a &&& m) s

/-- ORA (R246). -/
def execOra (o : ReadOp) (s : State) : Host.Outcome State Fault Refusal := run (logic o fun a m => a ||| m) s

/-- EOR (R247). -/
def execEor (o : ReadOp) (s : State) : Host.Outcome State Fault Refusal := run (logic o fun a m => a ^^^ m) s

/-- CMP (R248). -/
def execCmp (o : ReadOp) (s : State) : Host.Outcome State Fault Refusal := run (compare o State.a) s

/-- CPX (R249). -/
def execCpx (o : ReadOp) (s : State) : Host.Outcome State Fault Refusal := run (compare o State.x) s

/-- CPY (R250). -/
def execCpy (o : ReadOp) (s : State) : Host.Outcome State Fault Refusal := run (compare o State.y) s

/-- BIT (R251). -/
def execBit (o : ReadOp) (s : State) : Host.Outcome State Fault Refusal :=
  run (do
    let m ← readOperand o
    update fun s => s.setP (s.p.bitTest (isImmediate o) s.a m)) s

/-- INC (R252). -/
def execInc (o : RmwOp) (s : State) : Host.Outcome State Fault Refusal := run (modifyOperand .incDec o (stepBy fun v => v + 1)) s

/-- DEC (R253). -/
def execDec (o : RmwOp) (s : State) : Host.Outcome State Fault Refusal := run (modifyOperand .incDec o (stepBy fun v => v - 1)) s

/-- INX (R254). -/
def execInx (s : State) : Host.Outcome State Fault Refusal :=
  run (stepRegister State.x State.setX fun v => v + 1) s

/-- INY (R255). -/
def execIny (s : State) : Host.Outcome State Fault Refusal :=
  run (stepRegister State.y State.setY fun v => v + 1) s

/-- DEX (R256). -/
def execDex (s : State) : Host.Outcome State Fault Refusal :=
  run (stepRegister State.x State.setX fun v => v - 1) s

/-- DEY (R257). -/
def execDey (s : State) : Host.Outcome State Fault Refusal :=
  run (stepRegister State.y State.setY fun v => v - 1) s

end Sys2Proof.Machine
end

