-- ==== Sys2Proof/Machine/Control.lean ====
section
/-! DEFINITION. Branches, jumps, calls, returns, BRK and the illegal opcodes (44_control_transfer R320 to R336, 30_encoding R146). -/

namespace Sys2Proof.Machine

/-- `Branch(cond)` (R320). The page crossed is that of the next instruction. -/
def branch (cond : Bool) (d : Byte) : Exec Unit := do
  let d ← operandByte d
  if cond then do
    internal
    let pc ← look State.pc
    if crossed pc (branchTarget pc d) then internal else pure ()
    update fun s => s.setPc (branchTarget pc d)
  else pure ()

/-- A conditional branch on a flag (R321 to R329). -/
def branchOn (cond : State → Bool) (d : Byte) : Exec Unit := do
  let c ← look cond
  branch c d

/-- The common part of BBRn and BBSn (R330, R331): the branch is taken when bit `n` of the byte is `b`. -/
def branchOnBit (n : Nat) (b : Bool) (z d : Byte) : Exec Unit := do
  let z ← operandByte z
  let m ← busRead (zeroPage z)
  internal
  branch (bit m n == b) d

/-- `tl <- BusRead(p); th <- BusRead(u16(p + 1)); PC <- th ++ tl` (R182). -/
def jumpThrough (p : Addr) : Exec Unit := do
  let l ← busRead p
  let h ← busRead (p + 1)
  update fun s => s.setPc (join h l)

/-- JMP (R332, R182). -/
def jumpTo : JumpOp → Exec Unit
  | .abs t => do
    let t ← operandAddr t
    update fun s => s.setPc t
  | .ind p => do
    let p ← operandAddr p
    internal
    jumpThrough p
  | .iax p => do
    let p ← operandAddr p
    internal
    let x ← look State.x
    jumpThrough (p + x.setWidth 16)

/-- JSR (R333): both operand bytes, an internal cycle, then the pushes of the return address minus one. -/
def jumpSubroutine (t : Addr) : Exec Unit := do
  let t ← operandAddr t
  internal
  let pc ← look State.pc
  push (hi (pc - 1))
  push (lo (pc - 1))
  update fun s => s.setPc t

/-- RTS (R334). -/
def returnSubroutine : Exec Unit := do
  internal
  internal
  let l ← pull
  let h ← pull
  internal
  update fun s => s.setPc (join h l + 1)

/-- BRK (R336): a fault in `fatal` mode (R413), the software interrupt in `architectural` mode. -/
def softwareInterrupt (pad : Byte) : Exec Unit := do
  let mode ← look fun s => s.cfg.brkMode
  match mode with
  | .fatal => do
    let pc ← look State.pc
    raise (.brk (pc - 1))
  | .architectural => do
    let _ ← operandByte pad
    takeException true vecIrq

/-- An illegal opcode (R146, R405): PC is one past it, no operand byte is fetched. -/
def illegalOpcode (op : Byte) : Exec Unit := do
  let pc ← look State.pc
  raise (.illegalOpcode op (pc - 1))

/-- BCC (R321). -/
def execBcc (d : Byte) (s : State) : Host.Outcome State Fault Refusal := run (branchOn (fun s => !s.p.c) d) s

/-- BCS (R322). -/
def execBcs (d : Byte) (s : State) : Host.Outcome State Fault Refusal := run (branchOn (fun s => s.p.c) d) s

/-- BEQ (R323). -/
def execBeq (d : Byte) (s : State) : Host.Outcome State Fault Refusal := run (branchOn (fun s => s.p.z) d) s

/-- BNE (R324). -/
def execBne (d : Byte) (s : State) : Host.Outcome State Fault Refusal := run (branchOn (fun s => !s.p.z) d) s

/-- BMI (R325). -/
def execBmi (d : Byte) (s : State) : Host.Outcome State Fault Refusal := run (branchOn (fun s => s.p.n) d) s

/-- BPL (R326). -/
def execBpl (d : Byte) (s : State) : Host.Outcome State Fault Refusal := run (branchOn (fun s => !s.p.n) d) s

/-- BVC (R327). -/
def execBvc (d : Byte) (s : State) : Host.Outcome State Fault Refusal := run (branchOn (fun s => !s.p.v) d) s

/-- BVS (R328). -/
def execBvs (d : Byte) (s : State) : Host.Outcome State Fault Refusal := run (branchOn (fun s => s.p.v) d) s

/-- BRA (R329). -/
def execBra (d : Byte) (s : State) : Host.Outcome State Fault Refusal := run (branchOn (fun _ => true) d) s

/-- BBR0 (R330). -/
def execBbr0 (z d : Byte) (s : State) : Host.Outcome State Fault Refusal := run (branchOnBit 0 false z d) s

/-- BBR1 (R330). -/
def execBbr1 (z d : Byte) (s : State) : Host.Outcome State Fault Refusal := run (branchOnBit 1 false z d) s

/-- BBR2 (R330). -/
def execBbr2 (z d : Byte) (s : State) : Host.Outcome State Fault Refusal := run (branchOnBit 2 false z d) s

/-- BBR3 (R330). -/
def execBbr3 (z d : Byte) (s : State) : Host.Outcome State Fault Refusal := run (branchOnBit 3 false z d) s

/-- BBR4 (R330). -/
def execBbr4 (z d : Byte) (s : State) : Host.Outcome State Fault Refusal := run (branchOnBit 4 false z d) s

/-- BBR5 (R330). -/
def execBbr5 (z d : Byte) (s : State) : Host.Outcome State Fault Refusal := run (branchOnBit 5 false z d) s

/-- BBR6 (R330). -/
def execBbr6 (z d : Byte) (s : State) : Host.Outcome State Fault Refusal := run (branchOnBit 6 false z d) s

/-- BBR7 (R330). -/
def execBbr7 (z d : Byte) (s : State) : Host.Outcome State Fault Refusal := run (branchOnBit 7 false z d) s

/-- BBS0 (R331). -/
def execBbs0 (z d : Byte) (s : State) : Host.Outcome State Fault Refusal := run (branchOnBit 0 true z d) s

/-- BBS1 (R331). -/
def execBbs1 (z d : Byte) (s : State) : Host.Outcome State Fault Refusal := run (branchOnBit 1 true z d) s

/-- BBS2 (R331). -/
def execBbs2 (z d : Byte) (s : State) : Host.Outcome State Fault Refusal := run (branchOnBit 2 true z d) s

/-- BBS3 (R331). -/
def execBbs3 (z d : Byte) (s : State) : Host.Outcome State Fault Refusal := run (branchOnBit 3 true z d) s

/-- BBS4 (R331). -/
def execBbs4 (z d : Byte) (s : State) : Host.Outcome State Fault Refusal := run (branchOnBit 4 true z d) s

/-- BBS5 (R331). -/
def execBbs5 (z d : Byte) (s : State) : Host.Outcome State Fault Refusal := run (branchOnBit 5 true z d) s

/-- BBS6 (R331). -/
def execBbs6 (z d : Byte) (s : State) : Host.Outcome State Fault Refusal := run (branchOnBit 6 true z d) s

/-- BBS7 (R331). -/
def execBbs7 (z d : Byte) (s : State) : Host.Outcome State Fault Refusal := run (branchOnBit 7 true z d) s

/-- JMP (R332). -/
def execJmp (o : JumpOp) (s : State) : Host.Outcome State Fault Refusal := run (jumpTo o) s

/-- JSR (R333). -/
def execJsr (t : Addr) (s : State) : Host.Outcome State Fault Refusal := run (jumpSubroutine t) s

/-- RTS (R334). -/
def execRts (s : State) : Host.Outcome State Fault Refusal := run returnSubroutine s

/-- RTI (R335). -/
def execRti (s : State) : Host.Outcome State Fault Refusal := run returnFromInterrupt s

/-- BRK (R336). -/
def execBrk (pad : Byte) (s : State) : Host.Outcome State Fault Refusal := run (softwareInterrupt pad) s

/-- ILLEGAL (R146). -/
def execIllegal (op : Byte) (s : State) : Host.Outcome State Fault Refusal := run (illegalOpcode op) s

end Sys2Proof.Machine
end

