-- ==== Sys2Proof/Machine/LoadStore.lean ====
section
/-! DEFINITION. Loads, stores and register transfers (41_load_store_transfer R200 to R212). -/

namespace Sys2Proof.Machine

/-- The common part of the loads: read the operand, put it where `set` says, set N and Z from it. -/
def load (o : ReadOp) (set : State → Byte → State) : Exec Unit := do
  let m ← readOperand o
  update fun s => (set s m).setNZ m

/-- The common part of the transfers that set N and Z: an internal cycle, then the move. -/
def transfer (get : State → Byte) (set : State → Byte → State) : Exec Unit := do
  internal
  update fun s => (set s (get s)).setNZ (get s)

/-- LDA (R200). -/
def execLda (o : ReadOp) (s : State) : Host.Outcome State Fault Refusal := run (load o State.setA) s

/-- LDX (R201). -/
def execLdx (o : ReadOp) (s : State) : Host.Outcome State Fault Refusal := run (load o State.setX) s

/-- LDY (R202). -/
def execLdy (o : ReadOp) (s : State) : Host.Outcome State Fault Refusal := run (load o State.setY) s

/-- STA (R203). -/
def execSta (o : Mem) (s : State) : Host.Outcome State Fault Refusal := run (writeOperand o State.a) s

/-- STX (R204). -/
def execStx (o : Mem) (s : State) : Host.Outcome State Fault Refusal := run (writeOperand o State.x) s

/-- STY (R205). -/
def execSty (o : Mem) (s : State) : Host.Outcome State Fault Refusal := run (writeOperand o State.y) s

/-- STZ (R206). -/
def execStz (o : Mem) (s : State) : Host.Outcome State Fault Refusal := run (writeOperand o (fun _ => 0x00)) s

/-- TAX (R207). -/
def execTax (s : State) : Host.Outcome State Fault Refusal := run (transfer State.a State.setX) s

/-- TAY (R208). -/
def execTay (s : State) : Host.Outcome State Fault Refusal := run (transfer State.a State.setY) s

/-- TXA (R209). -/
def execTxa (s : State) : Host.Outcome State Fault Refusal := run (transfer State.x State.setA) s

/-- TYA (R210). -/
def execTya (s : State) : Host.Outcome State Fault Refusal := run (transfer State.y State.setA) s

/-- TSX (R211). -/
def execTsx (s : State) : Host.Outcome State Fault Refusal := run (transfer State.sp State.setX) s

/-- TXS (R212): the only transfer that leaves N and Z alone. -/
def execTxs (s : State) : Host.Outcome State Fault Refusal :=
  run (do
    internal
    update fun s => s.setSp s.x) s

end Sys2Proof.Machine
end

