-- ==== Sys2Proof/Machine/Shift.lean ====
section
/-! DEFINITION. Shifts, rotates and memory bit operations (43_shift_bit R280 to R287). -/

namespace Sys2Proof.Machine

/-- The end of a shift: C is the bit shifted out, N and Z come from the result. -/
def shifted (p : Flags) (out : Bool) (r : Byte) : Flags × Byte := (({ p with c := out } : Flags).setNZ r, r)

/-- A byte that is 1 exactly when the flag is set. -/
def carryIn (c : Bool) : Byte := (BitVec.ofBool c).setWidth 8

/-- `f` of ASL (R280). -/
def aslOp : Modification := fun s v => shifted s.p (bit v 7) (v <<< 1)

/-- `f` of LSR (R281). -/
def lsrOp : Modification := fun s v => shifted s.p (bit v 0) (v >>> 1)

/-- `f` of ROL (R282): the old carry enters bit 0. -/
def rolOp : Modification := fun s v => shifted s.p (bit v 7) (v <<< 1 ||| carryIn s.p.c)

/-- `f` of ROR (R283): the old carry enters bit 7. -/
def rorOp : Modification := fun s v => shifted s.p (bit v 0) (v >>> 1 ||| carryIn s.p.c <<< 7)

/-- `f` of TSB (R284): Z from A & M before the change. -/
def tsbOp : Modification := fun s v => ({ s.p with z := (s.a &&& v) == 0 }, v ||| s.a)

/-- `f` of TRB (R285). -/
def trbOp : Modification := fun s v => ({ s.p with z := (s.a &&& v) == 0 }, v &&& ~~~s.a)

/-- `f` of RMBn (R286): no flag. -/
def resetBit (n : Nat) : Modification := fun s v => (s.p, v &&& ~~~(1#8 <<< n))

/-- `f` of SMBn (R287): no flag. -/
def setBit (n : Nat) : Modification := fun s v => (s.p, v ||| 1#8 <<< n)

/-- ASL (R280). -/
def execAsl (o : RmwOp) (s : State) : Host.Outcome State Fault Refusal := run (modifyOperand .shift o aslOp) s

/-- LSR (R281). -/
def execLsr (o : RmwOp) (s : State) : Host.Outcome State Fault Refusal := run (modifyOperand .shift o lsrOp) s

/-- ROL (R282). -/
def execRol (o : RmwOp) (s : State) : Host.Outcome State Fault Refusal := run (modifyOperand .shift o rolOp) s

/-- ROR (R283). -/
def execRor (o : RmwOp) (s : State) : Host.Outcome State Fault Refusal := run (modifyOperand .shift o rorOp) s

/-- TSB (R284). -/
def execTsb (o : Mem) (s : State) : Host.Outcome State Fault Refusal := run (modifyMem .shift o tsbOp) s

/-- TRB (R285). -/
def execTrb (o : Mem) (s : State) : Host.Outcome State Fault Refusal := run (modifyMem .shift o trbOp) s

/-- RMB0 (R286). -/
def execRmb0 (z : Byte) (s : State) : Host.Outcome State Fault Refusal := run (modifyMem .shift (.zp z) (resetBit 0)) s

/-- RMB1 (R286). -/
def execRmb1 (z : Byte) (s : State) : Host.Outcome State Fault Refusal := run (modifyMem .shift (.zp z) (resetBit 1)) s

/-- RMB2 (R286). -/
def execRmb2 (z : Byte) (s : State) : Host.Outcome State Fault Refusal := run (modifyMem .shift (.zp z) (resetBit 2)) s

/-- RMB3 (R286). -/
def execRmb3 (z : Byte) (s : State) : Host.Outcome State Fault Refusal := run (modifyMem .shift (.zp z) (resetBit 3)) s

/-- RMB4 (R286). -/
def execRmb4 (z : Byte) (s : State) : Host.Outcome State Fault Refusal := run (modifyMem .shift (.zp z) (resetBit 4)) s

/-- RMB5 (R286). -/
def execRmb5 (z : Byte) (s : State) : Host.Outcome State Fault Refusal := run (modifyMem .shift (.zp z) (resetBit 5)) s

/-- RMB6 (R286). -/
def execRmb6 (z : Byte) (s : State) : Host.Outcome State Fault Refusal := run (modifyMem .shift (.zp z) (resetBit 6)) s

/-- RMB7 (R286). -/
def execRmb7 (z : Byte) (s : State) : Host.Outcome State Fault Refusal := run (modifyMem .shift (.zp z) (resetBit 7)) s

/-- SMB0 (R287). -/
def execSmb0 (z : Byte) (s : State) : Host.Outcome State Fault Refusal := run (modifyMem .shift (.zp z) (setBit 0)) s

/-- SMB1 (R287). -/
def execSmb1 (z : Byte) (s : State) : Host.Outcome State Fault Refusal := run (modifyMem .shift (.zp z) (setBit 1)) s

/-- SMB2 (R287). -/
def execSmb2 (z : Byte) (s : State) : Host.Outcome State Fault Refusal := run (modifyMem .shift (.zp z) (setBit 2)) s

/-- SMB3 (R287). -/
def execSmb3 (z : Byte) (s : State) : Host.Outcome State Fault Refusal := run (modifyMem .shift (.zp z) (setBit 3)) s

/-- SMB4 (R287). -/
def execSmb4 (z : Byte) (s : State) : Host.Outcome State Fault Refusal := run (modifyMem .shift (.zp z) (setBit 4)) s

/-- SMB5 (R287). -/
def execSmb5 (z : Byte) (s : State) : Host.Outcome State Fault Refusal := run (modifyMem .shift (.zp z) (setBit 5)) s

/-- SMB6 (R287). -/
def execSmb6 (z : Byte) (s : State) : Host.Outcome State Fault Refusal := run (modifyMem .shift (.zp z) (setBit 6)) s

/-- SMB7 (R287). -/
def execSmb7 (z : Byte) (s : State) : Host.Outcome State Fault Refusal := run (modifyMem .shift (.zp z) (setBit 7)) s

end Sys2Proof.Machine
end

