-- ==== Sys2Proof/Machine/StackFlags.lean ====
section
/-! DEFINITION. Stack, flag and system instructions (45_stack_flags_system R361 to R378). -/

namespace Sys2Proof.Machine

/-- The common part of the pushes (45_stack_flags_system section 2): `Internal(); Push(value)`. -/
def pushInstr (value : State → Byte) : Exec Unit := do
  internal
  let v ← look value
  push v

/-- The common part of the pulls (section 3): two internal cycles, the pull, then what the pulled byte does. -/
def pullInstr (put : State → Byte → State) : Exec Unit := do
  internal
  internal
  let v ← pull
  update fun s => put s v

/-- The common part of the flag instructions (section 4): an internal cycle, then the flag write. -/
def flagInstr (f : Flags → Flags) : Exec Unit := do
  internal
  update fun s => s.setP (f s.p)

/-- The common part of WAI and STP (R377, R378). -/
def enterMode (m : Mode) : Exec Unit := do
  internal
  internal
  update fun s => s.setMode m

/-- PHA (R361). -/
def execPha (s : State) : Host.Outcome State Fault Refusal := run (pushInstr State.a) s

/-- PHP (R362). -/
def execPhp (s : State) : Host.Outcome State Fault Refusal := run (pushInstr (fun s => s.p.pByte true)) s

/-- PHX (R363). -/
def execPhx (s : State) : Host.Outcome State Fault Refusal := run (pushInstr State.x) s

/-- PHY (R364). -/
def execPhy (s : State) : Host.Outcome State Fault Refusal := run (pushInstr State.y) s

/-- PLA (R365). -/
def execPla (s : State) : Host.Outcome State Fault Refusal := run (pullInstr fun s v => (s.setA v).setNZ v) s

/-- PLP (R366). -/
def execPlp (s : State) : Host.Outcome State Fault Refusal := run (pullInstr fun s v => s.setP (s.p.unpack v)) s

/-- PLX (R367). -/
def execPlx (s : State) : Host.Outcome State Fault Refusal := run (pullInstr fun s v => (s.setX v).setNZ v) s

/-- PLY (R368). -/
def execPly (s : State) : Host.Outcome State Fault Refusal := run (pullInstr fun s v => (s.setY v).setNZ v) s

/-- CLC (R369). -/
def execClc (s : State) : Host.Outcome State Fault Refusal := run (flagInstr fun p => { p with c := false }) s

/-- SEC (R370). -/
def execSec (s : State) : Host.Outcome State Fault Refusal := run (flagInstr fun p => { p with c := true }) s

/-- CLI (R371). -/
def execCli (s : State) : Host.Outcome State Fault Refusal := run (flagInstr fun p => { p with i := false }) s

/-- SEI (R372). -/
def execSei (s : State) : Host.Outcome State Fault Refusal := run (flagInstr fun p => { p with i := true }) s

/-- CLD (R373). -/
def execCld (s : State) : Host.Outcome State Fault Refusal := run (flagInstr fun p => { p with d := false }) s

/-- SED (R374). -/
def execSed (s : State) : Host.Outcome State Fault Refusal := run (flagInstr fun p => { p with d := true }) s

/-- CLV (R375). -/
def execClv (s : State) : Host.Outcome State Fault Refusal := run (flagInstr fun p => { p with v := false }) s

/-- NOP (R376). -/
def execNop (s : State) : Host.Outcome State Fault Refusal := run internal s

/-- WAI (R377). -/
def execWai (s : State) : Host.Outcome State Fault Refusal := run (enterMode .wait) s

/-- STP (R378). -/
def execStp (s : State) : Host.Outcome State Fault Refusal := run (enterMode .stop) s

end Sys2Proof.Machine
end

