-- ==== Sys2Proof/Machine/Phases.lean ====
section
/-! DEFINITION. The phases of a step (60_exceptions R400): the interrupt poll, the opcode fetch, decoding, execution.
`Step.lean` puts them together. -/

namespace Sys2Proof.Machine

/-- The interrupt poll (R400 step 3, R410, R419): NMI before IRQ, IRQ only while I is clear; the latch is cleared
before the entry (R411, R412). The value says which interrupt was entered. -/
def pollInterrupts : Exec (Option IrqLine) := do
  let nmi ← look State.pendingNmi
  let irq ← look fun s => s.pendingIrq && !s.p.i
  if nmi then do
    update fun s => s.setPendingNmi false
    enterInterrupt vecNmi
    return some .nmi
  else if irq then do
    update fun s => s.setPendingIrq false
    enterInterrupt vecIrq
    return some .irq
  else return none

/-- Leaving WAIT because an interrupt is pending (R400 step 2). -/
def State.wake (s : State) : State := s.setMode .run

/-- An interrupt of either kind is pending (R400 step 2). -/
def State.interruptPending (s : State) : Bool := s.pendingNmi || s.pendingIrq

/-- The value a piece of pseudocode would end with, 0x00 if it would raise a fault; nothing happens. -/
def valueOf (x : Exec Byte) (s : State) : Byte :=
  match x s with
  | .ok v _ => v
  | .error _ _ => 0x00

/-- The second of two operand bytes fetched one after the other. -/
def fetchSecond : Exec Byte := do
  let _ ← fetch
  fetch

/-- The displacement byte of BBRn and BBSn, fetched after the zero-page read (R181). -/
def fetchDisplacement : Exec Byte := do
  let z ← fetch
  let _ ← busRead (zeroPage z)
  internal
  fetch

/-- The bytes that the operand fetches of the instruction with opcode `op` return, found by looking ahead from the
state after the opcode fetch, each in the state in which its instruction fetches it (R141, R143, R181). If a fetch
faults, the instruction raises that fault at that fetch and the byte given here is never used (log 3). -/
def operandsAhead (op : Byte) (s : State) : List Byte :=
  match entryAt s.cfg.isaLevel op with
  | .illegal => []
  | .one _ => []
  | .two _ => [valueOf fetch s]
  | .three _ => [valueOf fetch s, valueOf fetchSecond s]
  | .zpr _ => [valueOf fetch s, valueOf fetchDisplacement s]

/-- Decode (R400 step 5, R142): the instruction with opcode `op` in the state after the opcode fetch. -/
def instrAt (op : Byte) (s : State) : Instr :=
  match decode s.cfg.isaLevel (op :: operandsAhead op s) with
  | .ok (i, _) => i
  | .error _ => .illegal op

/-- The state that leaves step 3 and the opcode fetch of step 4, with the interrupt entered and the opcode. -/
def pollAndFetch : Exec (Option IrqLine × Byte) := do
  let interrupt ← pollInterrupts
  let op ← fetch
  return (interrupt, op)

/-- Steps 3 to 6 of R400. -/
def runInstruction (s : State) : Host.Outcome State Fault Refusal :=
  match pollAndFetch s with
  | .error f t => .next (t.latch f)
  | .ok (_, op) t => exec (instrAt op t) t

/-! ## Placing an instruction where the next step fetches it -/

/-- Put a byte into the storage behind an address, ROM included; an address without storage is left alone. -/
def State.placeByte (s : State) (a : Addr) (v : Byte) : State :=
  match target s.cfg a with
  | .srom o => s.setSrom (s.srom.store s.cfg.sromSize o v)
  | .brom o => s.setBrom (s.brom.store s.cfg.bromSize o v)
  | .ram o => s.setRam (s.ram.store s.cfg.ramSize o v)
  | .acia _ => s
  | .via _ _ => s
  | .hole => s
  | .fallback => s

/-- Put bytes at consecutive addresses from `a`. -/
def State.placeBytes (s : State) (a : Addr) : List Byte → State
  | [] => s
  | b :: bs => (s.placeByte a b).placeBytes (a + 1) bs

/-- Where the next step fetches its opcode: PC, or the handler's address if an interrupt is entered first. -/
def State.fetchAddr (s : State) : Addr :=
  match pollInterrupts s with
  | .ok _ t => t.pc
  | .error _ _ => s.pc

end Sys2Proof.Machine
end

