-- ==== Sys2Proof/Machine/Step.lean ====
section
/-! DEFINITION. `step()` (60_exceptions R400). -/

namespace Sys2Proof.Machine

/-- `step()` (R400): refused while a fault is latched (R414); nothing in STOP; in WAIT an idle cycle, or waking when an
interrupt is pending; otherwise the interrupt poll, the fetch and one instruction. -/
def step (s : State) : Host.Outcome State Fault Refusal :=
  match s.fault, s.mode with
  | some f, _ => .refused (.latched f)
  | none, .stop => .next s
  | none, .wait => if s.interruptPending then runInstruction s.wake else .next s.tick
  | none, .run => runInstruction s

/-- The state with an instruction, given as a table word, placed where `step` fetches its next instruction
(log 9). -/
def State.withFetchWord (s : State) (nbits w : Nat) : State := s.placeBytes s.fetchAddr (tableBytes nbits w)

end Sys2Proof.Machine
end

