-- ==== Sys2Proof/Machine/Cycles.lean ====
section
/-! DEFINITION. The cycle table of 70_reset_and_hazards R560: what each opcode costs, the opcode fetch included. The
meanings spend their cycles one `Tick()` at a time; the rule says that the table "must agree with the rules", and that
is stated of it. -/

namespace Sys2Proof

/-- A cell of the table: the base count, and which suffixes it carries: `p` page crossed, `t` branch taken, `d` decimal
mode, each one cycle more. -/
structure CycleCost where
  base : Nat
  p : Bool
  t : Bool
  d : Bool
  deriving DecidableEq, Repr

/-- A cell without a suffix. -/
def flat (n : Nat) : CycleCost := ⟨n, false, false, false⟩
/-- Suffix `p`. -/
def costP (n : Nat) : CycleCost := ⟨n, true, false, false⟩
/-- Suffixes `p` and `t`. -/
def costPT (n : Nat) : CycleCost := ⟨n, true, true, false⟩
/-- Suffix `d`. -/
def costD (n : Nat) : CycleCost := ⟨n, false, false, true⟩
/-- Suffixes `p` and `d`. -/
def costPD (n : Nat) : CycleCost := ⟨n, true, false, true⟩
/-- An illegal opcode: one cycle, then the fault. -/
def illegalCost : CycleCost := ⟨1, false, false, false⟩

def cyclesRow0 : List CycleCost :=
  [flat 7, flat 6, illegalCost, illegalCost, flat 5, flat 3, flat 5, flat 5,
   flat 3, flat 2, flat 2, illegalCost, flat 6, flat 4, flat 6, costPT 5]
def cyclesRow1 : List CycleCost :=
  [costPT 2, costP 5, flat 5, illegalCost, flat 5, flat 4, flat 6, flat 5,
   flat 2, costP 4, flat 2, illegalCost, flat 6, costP 4, costP 6, costPT 5]
def cyclesRow2 : List CycleCost :=
  [flat 6, flat 6, illegalCost, illegalCost, flat 3, flat 3, flat 5, flat 5,
   flat 4, flat 2, flat 2, illegalCost, flat 4, flat 4, flat 6, costPT 5]
def cyclesRow3 : List CycleCost :=
  [costPT 2, costP 5, flat 5, illegalCost, flat 4, flat 4, flat 6, flat 5,
   flat 2, costP 4, flat 2, illegalCost, costP 4, costP 4, costP 6, costPT 5]
def cyclesRow4 : List CycleCost :=
  [flat 6, flat 6, illegalCost, illegalCost, illegalCost, flat 3, flat 5, flat 5,
   flat 3, flat 2, flat 2, illegalCost, flat 3, flat 4, flat 6, costPT 5]
def cyclesRow5 : List CycleCost :=
  [costPT 2, costP 5, flat 5, illegalCost, illegalCost, flat 4, flat 6, flat 5,
   flat 2, costP 4, flat 3, illegalCost, illegalCost, costP 4, costP 6, costPT 5]
def cyclesRow6 : List CycleCost :=
  [flat 6, costD 6, illegalCost, illegalCost, flat 3, costD 3, flat 5, flat 5,
   flat 4, costD 2, flat 2, illegalCost, flat 6, costD 4, flat 6, costPT 5]
def cyclesRow7 : List CycleCost :=
  [costPT 2, costPD 5, costD 5, illegalCost, flat 4, costD 4, flat 6, flat 5,
   flat 2, costPD 4, flat 4, illegalCost, flat 6, costPD 4, costP 6, costPT 5]
def cyclesRow8 : List CycleCost :=
  [costP 3, flat 6, illegalCost, illegalCost, flat 3, flat 3, flat 3, flat 5,
   flat 2, flat 2, flat 2, illegalCost, flat 4, flat 4, flat 4, costPT 5]
def cyclesRow9 : List CycleCost :=
  [costPT 2, flat 6, flat 5, illegalCost, flat 4, flat 4, flat 4, flat 5,
   flat 2, flat 5, flat 2, illegalCost, flat 4, flat 5, flat 5, costPT 5]
def cyclesRowA : List CycleCost :=
  [flat 2, flat 6, flat 2, illegalCost, flat 3, flat 3, flat 3, flat 5,
   flat 2, flat 2, flat 2, illegalCost, flat 4, flat 4, flat 4, costPT 5]
def cyclesRowB : List CycleCost :=
  [costPT 2, costP 5, flat 5, illegalCost, flat 4, flat 4, flat 4, flat 5,
   flat 2, costP 4, flat 2, illegalCost, costP 4, costP 4, costP 4, costPT 5]
def cyclesRowC : List CycleCost :=
  [flat 2, flat 6, illegalCost, illegalCost, flat 3, flat 3, flat 5, flat 5,
   flat 2, flat 2, flat 2, flat 3, flat 4, flat 4, flat 6, costPT 5]
def cyclesRowD : List CycleCost :=
  [costPT 2, costP 5, flat 5, illegalCost, illegalCost, flat 4, flat 6, flat 5,
   flat 2, costP 4, flat 3, flat 3, illegalCost, costP 4, flat 7, costPT 5]
def cyclesRowE : List CycleCost :=
  [flat 2, costD 6, illegalCost, illegalCost, flat 3, costD 3, flat 5, flat 5,
   flat 2, costD 2, flat 2, illegalCost, flat 4, costD 4, flat 6, costPT 5]
def cyclesRowF : List CycleCost :=
  [costPT 2, costPD 5, costD 5, illegalCost, illegalCost, costD 4, flat 6, flat 5,
   flat 2, costPD 4, flat 4, illegalCost, illegalCost, costPD 4, flat 7, costPT 5]

/-- The table of R560: row by the high nibble, column by the low nibble. -/
def cycleTable : List (List CycleCost) :=
  [cyclesRow0, cyclesRow1, cyclesRow2, cyclesRow3, cyclesRow4, cyclesRow5, cyclesRow6, cyclesRow7] ++
  [cyclesRow8, cyclesRow9, cyclesRowA, cyclesRowB, cyclesRowC, cyclesRowD, cyclesRowE, cyclesRowF]

/-- The cell of an opcode byte. -/
def cycleCost (op : Byte) : CycleCost := (cycleTable.getD (op.toNat / 16) []).getD (op.toNat % 16) illegalCost

/-- The cell of an instruction. -/
def Instr.cycleCost (i : Instr) : CycleCost :=
  match i.opcode? with
  | some op => Sys2Proof.cycleCost op
  | none => illegalCost

/-- The most the suffixes of a cell can add. -/
def CycleCost.extra (c : CycleCost) : Nat := c.p.toNat + c.t.toNat + c.d.toNat

end Sys2Proof
end

