-- ==== Sys2Proof/Machine/Reset.lean ====
section
/-! DEFINITION. Power-on, reset and construction (70_reset_and_hazards R540 to R544, 00_scope R5). -/

namespace Sys2Proof.Machine

/-- The machine at power-on, before its first reset (R540): ROM all 0x00, TX empty, lines not asserted, `running`
false, PC 0x0000. -/
def State.powerOn (c : Cfg) : State :=
  { State.reset with cfg := c, vias := c.vias.map fun _ => Via.reset }

/-- Every assignment of `reset()` before the vector read, in the order of R540. -/
def State.clearAll (s : State) : State :=
  { s with
    acia := s.acia.reset
    vias := s.vias.map fun _ => Via.reset
    brom := { s.brom with bank := 0 }
    srom := { s.srom with bank := 0 }
    ram := { cells := [], bank := 0 }
    a := 0x00, x := 0x00, y := 0x00, sp := 0xFD
    p := Flags.reset
    cycles := 0
    pendingNmi := false, pendingIrq := false
    mode := .run
    fault := none }

/-- The vector read of `reset()`, on the cycle-free path (R542). -/
def loadResetVector : Exec Unit := do
  let l ← readNoCycle vecReset
  let h ← readNoCycle (vecReset + 1)
  update fun s => s.setPc (join h l)

/-- `reset()` (R540). If the vector read raises an error, that error is latched and PC keeps its value (R543). -/
def resetMachine (s : State) : State :=
  match loadResetVector s.clearAll with
  | .ok _ t => t
  | .error f t => t.latch f

/-- Construction: an ill-formed configuration is rejected and no machine exists (R5, R409 `BadMap`); otherwise
power-on, which is construction followed by `reset()` (R38). -/
def construct (c : Cfg) : Except Fault State :=
  if c.wf then .ok (resetMachine (State.powerOn c)) else .error (.configError .badMap 0)

end Sys2Proof.Machine
end

