-- ==== Sys2Proof/Machine/HostOps.lean ====
section
/-! DEFINITION. What the host may do between two steps (60_exceptions R430 to R438, 20_memory R112 to R114,
61_via R485, 62_acia R520 to R523). An operation that is rejected returns its error and changes nothing (R415);
`step()` is `Machine/Step.lean`. -/

namespace Sys2Proof.Machine

/-- The devices with banks (R112, R114). -/
inductive BankDevice where
  | bankedRom
  | sharedRom
  | ram
  deriving DecidableEq, Repr

/-- The ROM devices (R112, R113). -/
inductive RomDevice where
  | bankedRom
  | sharedRom
  deriving DecidableEq, Repr

/-- `totalBanks` (R32, R33). -/
def BankDevice.totalBanks (c : Cfg) : BankDevice → Nat
  | .bankedRom => c.bromBanks
  | .sharedRom => 1
  | .ram => c.ramBanks

/-- `totalBanks` of a ROM device. -/
def RomDevice.totalBanks (c : Cfg) : RomDevice → Nat
  | .bankedRom => c.bromBanks
  | .sharedRom => 1

/-- `bankSize` of a ROM device (R32). -/
def RomDevice.bankSize (c : Cfg) : RomDevice → Nat
  | .bankedRom => c.bromSize
  | .sharedRom => c.sromSize

/-- The storage of a ROM device. -/
def State.rom (s : State) : RomDevice → Bank
  | .bankedRom => s.brom
  | .sharedRom => s.srom

/-- Replace the storage of a ROM device. -/
def State.setRom (s : State) (d : RomDevice) (b : Bank) : State :=
  match d with
  | .bankedRom => s.setBrom b
  | .sharedRom => s.setSrom b

/-- `setRunning(b)` (R432). -/
def hostSetRunning (s : State) (b : Bool) : State := s.setRunning b

/-- `requestInterrupt()` (R435). -/
def hostRequestInterrupt (s : State) : State := s.setPendingIrq true

/-- `triggerNmi()` (R436). -/
def hostTriggerNmi (s : State) : State := s.setPendingNmi true

/-- `readMemory(a)` (R433): no cycle, but the device's read side effect. -/
def hostReadMemory (s : State) (a : Addr) : Except Fault (Byte × State) :=
  match readNoCycle a s with
  | .ok v t => .ok (v, t)
  | .error f _ => .error f

/-- `writeMemory(a, v)` (R434). -/
def hostWriteMemory (s : State) (a : Addr) (v : Byte) : Except Fault State :=
  match writeNoCycle a v s with
  | .ok _ t => .ok t
  | .error f _ => .error f

/-- `LoadRom(device, bank, bytes)` (R112): the leading bytes of the bank, the rest keeping what they hold. DESIGN CHOICE
(log 14): where the bank is illegal and the bytes are too long as well, R112 says only `a configuration error`; the bank
is tested first, so the error is `BadBank`. -/
def hostLoadRom (s : State) (d : RomDevice) (bank : Nat) (bytes : List Byte) : Except Fault State :=
  if d.totalBanks s.cfg ≤ bank then .error (.configError .badBank bank)
  else if d.bankSize s.cfg < bytes.length then .error (.configError .imageSize bytes.length)
  else
    let b := s.rom d
    .ok (s.setRom d { b with cells := Memory.writeAll b.cells (bank * d.bankSize s.cfg) bytes })

/-- `LoadImage(device, image)` with a flat image (R113), cut bank-major. -/
def hostLoadFlat (s : State) (d : RomDevice) (image : List Byte) : Except Fault State :=
  if d.totalBanks s.cfg * d.bankSize s.cfg < image.length then .error (.configError .imageSize image.length)
  else
    let b := s.rom d
    .ok (s.setRom d { b with cells := Memory.writeAll b.cells 0 image })

/-- `LoadImage` with a jagged image (R113): one `LoadRom` a bank, from bank `k` on; an error anywhere changes nothing
(log 14). -/
def hostLoadJagged (s : State) (d : RomDevice) (k : Nat) : List (List Byte) → Except Fault State
  | [] => .ok s
  | bytes :: rest =>
    match hostLoadRom s d k bytes with
    | .ok t => hostLoadJagged t d (k + 1) rest
    | .error f => .error f

/-- `SelectBank(device, n)` (R114). -/
def hostSelectBank (s : State) (d : BankDevice) (n : Nat) : Except Fault State :=
  if d.totalBanks s.cfg ≤ n then .error (.configError .badBank n)
  else .ok (match d with
    | .bankedRom => s.setBrom { s.brom with bank := n }
    | .sharedRom => s.setSrom { s.srom with bank := n }
    | .ram => s.setRam { s.ram with bank := n })

/-- `AciaReceive(b)` (R520); the ACIA always uses the IRQ line. -/
def hostAciaReceive (s : State) (b : Byte) : State :=
  let e := s.acia.receive b
  if e.2 then (s.setAcia e.1).setPendingIrq true else s.setAcia e.1

/-- `AciaSetLines(dsr, dcd)` (R521). -/
def hostAciaSetLines (s : State) (dsr dcd : Bool) : State :=
  s.setAcia { s.acia with dsrAsserted := dsr, dcdAsserted := dcd }

/-- Consuming the first `n` bytes of TX (R522): the bytes, and the state without them. -/
def hostDrainTx (s : State) (n : Nat) : List Byte × State :=
  (s.acia.tx.take n, s.setAcia { s.acia with tx := s.acia.tx.drop n })

/-- `ViaControlEdge(i, line)` (R485): `SetFlag` on the line's bit (R456). DESIGN CHOICE (log 17): for an `i` with no VIA
(R485 is silent) nothing changes. -/
def hostViaControlEdge (s : State) (i : Nat) (l : ControlLine) : State :=
  match s.vias[i]? with
  | none => s
  | some v =>
    let e := v.setFlag l.flag
    (s.setVias (s.vias.set i e.1)).viaRequest i e.2

/-- The register snapshot (R437, R25): A, X, Y, SP, PC and `PByte(0)`. -/
structure RegisterSnapshot where
  a : Byte
  x : Byte
  y : Byte
  sp : Byte
  pc : Addr
  p : Byte
  deriving DecidableEq, Repr

/-- Reading the register snapshot. -/
def State.registers (s : State) : RegisterSnapshot := ⟨s.a, s.x, s.y, s.sp, s.pc, s.p.pByte false⟩

/-- Snapshot export (R39): all the state. -/
def exportSnapshot (s : State) : State := s

/-- Snapshot import (R39): every element is restored; the configuration is not state and stays (log 16). -/
def importSnapshot (s snapshot : State) : State := { snapshot with cfg := s.cfg }

/-- The operations and events the host has besides `step()`, as data. -/
inductive HostEvent where
  | reset
  | setRunning (b : Bool)
  | readMemory (a : Addr)
  | writeMemory (a : Addr) (v : Byte)
  | requestInterrupt
  | triggerNmi
  | loadRom (d : RomDevice) (bank : Nat) (bytes : List Byte)
  | loadFlat (d : RomDevice) (image : List Byte)
  | loadJagged (d : RomDevice) (image : List (List Byte))
  | selectBank (d : BankDevice) (n : Nat)
  | aciaReceive (b : Byte)
  | aciaSetLines (dsr dcd : Bool)
  | drainTx (n : Nat)
  | viaControlEdge (i : Nat) (l : ControlLine)
  deriving DecidableEq, Repr

/-- The state after an operation that may be rejected: unchanged when it is (R415). -/
def State.orUnchanged (s : State) : Except Fault State → State
  | .ok t => t
  | .error _ => s

/-- The state after a host event. -/
def applyHost (s : State) : HostEvent → State
  | .reset => resetMachine s
  | .setRunning b => hostSetRunning s b
  | .readMemory a => s.orUnchanged ((hostReadMemory s a).map Prod.snd)
  | .writeMemory a v => s.orUnchanged (hostWriteMemory s a v)
  | .requestInterrupt => hostRequestInterrupt s
  | .triggerNmi => hostTriggerNmi s
  | .loadRom d bank bytes => s.orUnchanged (hostLoadRom s d bank bytes)
  | .loadFlat d image => s.orUnchanged (hostLoadFlat s d image)
  | .loadJagged d image => s.orUnchanged (hostLoadJagged s d 0 image)
  | .selectBank d n => s.orUnchanged (hostSelectBank s d n)
  | .aciaReceive b => hostAciaReceive s b
  | .aciaSetLines dsr dcd => hostAciaSetLines s dsr dcd
  | .drainTx n => (hostDrainTx s n).2
  | .viaControlEdge i l => hostViaControlEdge s i l

end Sys2Proof.Machine
end

