-- ==== Sys2Proof/Machine/Trace.lean ====
section
/-! DEFINITION. The trace record that `step()` returns to the host (60_exceptions R401): a function of the state before
the step, not state (R39; log 11). -/

namespace Sys2Proof.Machine

/-- `event` (R401). -/
inductive TraceEvent where
  | executed
  | brk
  | waiting
  | stopped
  deriving DecidableEq, Repr

/-- The instruction part of a record, absent for `waiting` and `stopped` (R401); mnemonic, bit number and format are
those of the decoded instruction. -/
structure TracedInstr where
  pc : Addr
  opcode : Byte
  mnemonic : String
  /-- 0..7 for RMBn, SMBn, BBRn and BBSn, absent for every other instruction -/
  bit : Option Nat
  format : Format
  operands : List Byte
  deriving DecidableEq, Repr

/-- The trace record (R401). -/
structure Trace where
  event : TraceEvent
  interrupt : Option IrqLine
  instr : Option TracedInstr
  cycles : Nat
  deriving DecidableEq, Repr

/-- What `step()` returns: a record, the fault of a step that faults (R401, R402), or `Refused(fault)` (R414). -/
inductive StepReturn where
  | trace (t : Trace)
  | fault (f : Fault)
  | refused (f : Fault)
  deriving DecidableEq, Repr

/-- `(cycles - c0) mod 2^CYCLE_BITS` (R400 step 7). -/
def cyclesBetween (c : Cfg) (c0 c1 : Nat) : Nat := (c1 + 2 ^ c.cycleBits - c0) % 2 ^ c.cycleBits

/-- The event of an executed instruction: BRK that did not fault is `break` (R401). -/
def instrEvent : Instr → TraceEvent
  | .brk _ => .brk
  | _ => .executed

/-- The bit number of the four bit-numbered families (R142 `bit`, R401), `n` of R286, R287, R330, R331. -/
def bitNumber : Instr → Option Nat
  | .rmb0 _ | .smb0 _ | .bbr0 _ _ | .bbs0 _ _ => some 0
  | .rmb1 _ | .smb1 _ | .bbr1 _ _ | .bbs1 _ _ => some 1
  | .rmb2 _ | .smb2 _ | .bbr2 _ _ | .bbs2 _ _ => some 2
  | .rmb3 _ | .smb3 _ | .bbr3 _ _ | .bbs3 _ _ => some 3
  | .rmb4 _ | .smb4 _ | .bbr4 _ _ | .bbs4 _ _ => some 4
  | .rmb5 _ | .smb5 _ | .bbr5 _ _ | .bbs5 _ _ => some 5
  | .rmb6 _ | .smb6 _ | .bbr6 _ _ | .bbs6 _ _ => some 6
  | .rmb7 _ | .smb7 _ | .bbr7 _ _ | .bbs7 _ _ => some 7
  | _ => none

/-- The record of an instruction that leads from `s` (before the step) to `t`: `op` was fetched at `pc0`. -/
def instrTrace (s t : State) (interrupt : Option IrqLine) (pc0 : Addr) (op : Byte) (i : Instr) : Trace where
  event := instrEvent i
  interrupt := interrupt
  instr := some ⟨pc0, op, i.mnemonic, bitNumber i, i.format, i.operandBytes⟩
  cycles := cyclesBetween s.cfg s.cycles t.cycles

/-- The return value of steps 3 to 7 of R400, for a step that began in state `s` and reaches step 3 in state `w`. -/
def returnOfInstruction (s w : State) : StepReturn :=
  match pollAndFetch w with
  | .error f _ => .fault f
  | .ok (interrupt, op) t =>
    match exec (instrAt op t) t with
    | .next u =>
      match u.fault with
      | some f => .fault f
      | none => .trace (instrTrace s u interrupt (t.pc - 1) op (instrAt op t))
    | .fault f => .fault f
    | .refused _ => .trace ⟨.executed, interrupt, none, 0⟩

/-- What `step()` returns from a state (R400, R401). -/
def traceOf (s : State) : StepReturn :=
  match s.fault, s.mode with
  | some f, _ => .refused f
  | none, .stop => .trace ⟨.stopped, none, none, 0⟩
  | none, .wait =>
    if s.interruptPending then returnOfInstruction s s.wake else .trace ⟨.waiting, none, none, 1⟩
  | none, .run => returnOfInstruction s s

end Sys2Proof.Machine
end

