-- ==== Sys2Proof/Safety.lean ====
section
/-! DEFINITION. What counts as a legal state and a safe run, and the terms in which statements speak of
instructions: which registers, flags and memory bytes an instruction may change, and when its accesses succeed. -/

namespace Sys2Proof.Machine

/-! ## Legal states -/

/-- A device's storage is in canonical form, lies inside the device, and its bank pointer is legal (R32, R33). -/
structure Bank.Ok (b : Bank) (banks size : Nat) : Prop where
  canonical : Memory.wf b.cells = true
  inside : Memory.below (banks * size) b.cells = true
  bankLegal : b.bank < banks

/-- The ACIA's registers are as its writes leave them: the parity bit is clear (R508), and `port` is unconfigured or
what CTL says (R509). -/
structure Acia.Ok (d : Acia) : Prop where
  parityOff : bit d.cmd 5 = false
  portOfCtl : d.port = if baudCode d.ctl = 0 then none else some (portConfig d.ctl)

/-- A legal state of a machine with a well-formed configuration. -/
structure State.Inv (s : State) : Prop where
  cfgOk : s.cfg.wf = true
  ramOk : s.ram.Ok s.cfg.ramBanks s.cfg.ramSize
  bromOk : s.brom.Ok s.cfg.bromBanks s.cfg.bromSize
  sromOk : s.srom.Ok 1 s.cfg.sromSize
  viaCount : s.vias.length = s.cfg.vias.length
  aciaOk : s.acia.Ok
  cyclesFit : s.cycles < 2 ^ s.cfg.cycleBits
  breakClear : s.p.b = false
  modeLegal : s.cfg.isaLevel ≠ .w65c02s → s.mode = .run

/-- No fault is latched. A run is safe when every state of it is. -/
def State.Safe (s : State) : Prop := s.fault = none

/-- Everything but what the clock and the devices change by themselves: the counter, the pending latches, the VIAs
and the ACIA are blanked, and the program counter with them. -/
def State.still (s : State) : State :=
  { s with cycles := 0, pendingNmi := false, pendingIrq := false, vias := [], acia := Acia.powerOn, pc := 0 }

/-! ## Registers and flags by name -/

/-- The 8-bit registers of R20, R21. -/
inductive Reg where
  | a
  | x
  | y
  | sp
  deriving DecidableEq, Repr

/-- Read a register by name. -/
def State.reg (s : State) : Reg → Byte
  | .a => s.a
  | .x => s.x
  | .y => s.y
  | .sp => s.sp

/-- The flags of R24. -/
inductive FlagName where
  | n
  | v
  | b
  | d
  | i
  | z
  | c
  deriving DecidableEq, Repr

/-- Read a flag by name. -/
def Flags.get (f : Flags) : FlagName → Bool
  | .n => f.n
  | .v => f.v
  | .b => f.b
  | .d => f.d
  | .i => f.i
  | .z => f.z
  | .c => f.c

/-- The register a kind M instruction writes: A in the accumulator form. -/
def rmwRegs : RmwOp → List Reg
  | .acc => [.a]
  | .mem _ => []

/-- The registers an instruction writes: the column "written by" of R23, read by instruction. -/
def writtenRegs : Instr → List Reg
  | .lda _ | .txa | .tya | .adc _ | .sbc _ | .and _ | .ora _ | .eor _ => [.a]
  | .asl o | .lsr o | .rol o | .ror o | .inc o | .dec o => rmwRegs o
  | .ldx _ | .tax | .tsx | .inx | .dex => [.x]
  | .ldy _ | .tay | .iny | .dey => [.y]
  | .pla => [.a, .sp]
  | .plx => [.x, .sp]
  | .ply => [.y, .sp]
  | .txs | .pha | .php | .phx | .phy | .plp | .jsr _ | .rts | .rti | .brk _ => [.sp]
  | _ => []

/-- The flags of BIT: Z alone in the immediate form (R251). -/
def bitFlags : ReadOp → List FlagName
  | .imm _ => [.z]
  | .mem _ => [.n, .v, .z]

/-- The flags an instruction writes: the column "written by" of R24, read by instruction. -/
def writtenFlags : Instr → List FlagName
  | .lda _ | .ldx _ | .ldy _ | .tax | .tay | .txa | .tya | .tsx | .and _ | .ora _ | .eor _ => [.n, .z]
  | .inc _ | .dec _ | .inx | .iny | .dex | .dey | .pla | .plx | .ply => [.n, .z]
  | .cmp _ | .cpx _ | .cpy _ | .asl _ | .lsr _ | .rol _ | .ror _ => [.n, .z, .c]
  | .adc _ | .sbc _ => [.n, .v, .z, .c]
  | .bit o => bitFlags o
  | .tsb _ | .trb _ => [.z]
  | .plp | .rti => [.n, .v, .d, .i, .z, .c]
  | .brk _ => [.d, .i]
  | .clc | .sec => [.c]
  | .cli | .sei => [.i]
  | .cld | .sed => [.d]
  | .clv => [.v]
  | _ => []

/-! ## What an instruction stores to -/

/-- Where an instruction stores: nowhere, to its memory operand, or that many bytes on the stack. -/
inductive Stores where
  | nothing
  | operand (k : AccessKind) (m : Mem)
  | stack (n : Nat)
  deriving DecidableEq, Repr

/-- What a kind M instruction stores to: nothing in the accumulator form. -/
def rmwStores (k : AccessKind) : RmwOp → Stores
  | .acc => .nothing
  | .mem m => .operand k m

/-- Where each instruction stores (R184, R333, R336, R361 to R364). -/
def storesOf : Instr → Stores
  | .sta m | .stx m | .sty m | .stz m => .operand .write m
  | .asl o | .lsr o | .rol o | .ror o => rmwStores .shift o
  | .inc o | .dec o => rmwStores .incDec o
  | .tsb m | .trb m => .operand .shift m
  | .rmb0 z | .rmb1 z | .rmb2 z | .rmb3 z | .rmb4 z | .rmb5 z | .rmb6 z | .rmb7 z => .operand .shift (.zp z)
  | .smb0 z | .smb1 z | .smb2 z | .smb3 z | .smb4 z | .smb5 z | .smb6 z | .smb7 z => .operand .shift (.zp z)
  | .pha | .php | .phx | .phy => .stack 1
  | .jsr _ => .stack 2
  | .brk _ => .stack 3
  | _ => .nothing

/-! ## When accesses succeed -/

/-- The `n` bytes from PC on can be fetched. -/
def fetchable (n : Nat) (s : State) : Bool := (List.range n).all fun k => readable s.cfg (s.pc + BitVec.ofNat 16 k)

/-- The zero-page address of the pointer an indirect mode reads (R177 to R179). -/
def pointerOf (s : State) : Mem → Option Byte
  | .izx z => some (z + s.x)
  | .izy z | .izp z => some z
  | _ => none

/-- Both bytes of a zero-page pointer can be read. -/
def pointerReadable (c : Cfg) : Option Byte → Bool
  | some p => readable c (zeroPage p) && readable c (zeroPage (p + 1))
  | none => true

/-- Everything the effective address is made from can be read: the operand bytes and the pointer. -/
def addressable (m : Mem) (s : State) : Bool := fetchable m.bytes.length s && pointerReadable s.cfg (pointerOf s m)

/-- The effective address is formed and the address itself satisfies `ok`. -/
def reaches (ok : Cfg → Addr → Bool) (k : AccessKind) (m : Mem) (s : State) : Bool :=
  addressable m s &&
  match effectiveAddress k m s with
  | .ok ea _ => ok s.cfg ea
  | .error _ _ => false

/-- A read and then a write of the address raise no fault. -/
def modifiable (c : Cfg) (a : Addr) : Bool := readable c a && writable c a

/-- The operand of a kind R instruction can be read. -/
def operandReads (s : State) : ReadOp → Bool
  | .imm _ => fetchable 1 s
  | .mem m => reaches readable .read m s

/-- The operand of a kind M instruction can be read and written. -/
def operandModifies (k : AccessKind) (s : State) : RmwOp → Bool
  | .acc => true
  | .mem m => reaches modifiable k m s

/-- The next `n` pushes succeed (R360). -/
def pushable (n : Nat) (s : State) : Bool :=
  (List.range n).all fun k => writable s.cfg (stackAddr (s.sp - BitVec.ofNat 8 k))

/-- The next `n` pushes go to RAM. -/
def pushesToRam (n : Nat) (s : State) : Bool :=
  (List.range n).all fun k => inRam s.cfg (stackAddr (s.sp - BitVec.ofNat 8 k))

/-- The next `n` pulls succeed (R360). -/
def pullable (n : Nat) (s : State) : Bool :=
  (List.range n).all fun k => readable s.cfg (stackAddr (s.sp + 1 + BitVec.ofNat 8 k))

/-- `n` clock cycles without a bus access (R87). -/
def State.ticks (s : State) : Nat → State
  | 0 => s
  | n + 1 => s.tick.ticks n

end Sys2Proof.Machine
end

