-- ==== Sys2Proof/Certificates/Slice0/Obligations.lean ====
section
/-! DEFINITION. The statements about this model. Each `Obligations.<Name>` says in its docstring which rule of `spec/` it
formalises. The results are written with natural and integer arithmetic, not with the model's own operations, wherever
the rule is arithmetic. `exec` starts with PC one past the opcode and the opcode's cycle spent. -/

namespace Sys2Proof.Claims

open Sys2Proof.Machine

/-! ## The shapes that several statements share -/

/-- The flags after `SetNZ(v)` (R24). -/
def withNZ (p : Flags) (v : Byte) : Flags := { p with n := decide (128 ≤ v.toNat), z := decide (v.toNat = 0) }

/-- A boolean as 0 or 1. -/
def num (b : Bool) : Nat := if b then 1 else 0

/-- `mk` loads a register: it reads its operand once, `put` writes the register, N and Z come from the byte, and if the
read faults nothing else happens. -/
def Loads (mk : ReadOp → Instr) (put : State → Byte → State) : Prop :=
  ∀ (o : ReadOp) (s : State),
    (operandReads s o = true → ∃ m u, readOperand o s = .ok m u ∧
      exec (mk o) s = .next { put u m with p := withNZ u.p m }) ∧
    (∀ f u, readOperand o s = .error f u → exec (mk o) s = .next (u.latch f))

/-- `mk` combines A with its operand: `A <- g(A, M)`, N and Z from the result. -/
def Combines (mk : ReadOp → Instr) (g : Byte → Byte → Byte) : Prop :=
  ∀ (o : ReadOp) (s : State),
    (operandReads s o = true → ∃ m u, readOperand o s = .ok m u ∧
      exec (mk o) s = .next { u with a := g s.a m, p := withNZ u.p (g s.a m) }) ∧
    (∀ f u, readOperand o s = .error f u → exec (mk o) s = .next (u.latch f))

/-- `mk` compares a register with its operand: C is the unsigned `r >= M`, N and Z are those of the 8-bit difference. -/
def Compares (mk : ReadOp → Instr) (reg : State → Byte) : Prop :=
  ∀ (o : ReadOp) (s : State),
    (operandReads s o = true → ∃ m u, readOperand o s = .ok m u ∧
      exec (mk o) s = .next { u with p :=
        { withNZ u.p (BitVec.ofInt 8 ((reg s).toNat - m.toNat)) with c := decide (m.toNat ≤ (reg s).toNat) } }) ∧
    (∀ f u, readOperand o s = .error f u → exec (mk o) s = .next (u.latch f))

/-- `mk` stores a value: the effective address, then one bus write, and nothing is read from the destination. It runs to
its end at every writable address; in RAM the byte is then the value and every other byte is as before. -/
def StoresValue (mk : Mem → Instr) (value : State → Byte) : Prop :=
  ∀ (o : Mem) (s : State),
    (∀ ea u, effectiveAddress .write o s = .ok ea u → exec (mk o) s = finish (busWrite ea (value s) u)) ∧
    (∀ f u, effectiveAddress .write o s = .error f u → exec (mk o) s = .next (u.latch f)) ∧
    (reaches writable .write o s = true → ∃ ea u t, effectiveAddress .write o s = .ok ea u ∧
      busWrite ea (value s) u = .ok () t ∧ exec (mk o) s = .next t ∧
      (∀ b, b ≠ ea → t.memByte b = s.memByte b) ∧
      (inRam s.cfg ea = true → Memory.wf s.ram.cells = true →
        t.still = ({ s with ram := t.ram } : State).still ∧ t.memByte ea = some (value s)))

/-- `i` modifies its memory operand `o` by `f`, which gives the new flags and the new byte: read, internal cycle, write.
If the write faults the flags are written all the same. -/
def ModifiesAt (k : AccessKind) (i : Instr) (o : Mem) (f : State → Byte → Flags × Byte) : Prop :=
  ∀ s : State,
    (∀ ea u m v, effectiveAddress k o s = .ok ea u → busRead ea u = .ok m v →
      exec i s = finish (busWrite ea (f s m).2 { v.tick with p := (f s m).1 })) ∧
    (∀ ea u e v, effectiveAddress k o s = .ok ea u → busRead ea u = .error e v → exec i s = .next (v.latch e)) ∧
    (∀ e u, effectiveAddress k o s = .error e u → exec i s = .next (u.latch e)) ∧
    (reaches modifiable k o s = true → ∃ ea u m v t, effectiveAddress k o s = .ok ea u ∧ busRead ea u = .ok m v ∧
      busWrite ea (f s m).2 { v.tick with p := (f s m).1 } = .ok () t ∧ exec i s = .next t ∧
      (∀ b, b ≠ ea → t.memByte b = s.memByte b) ∧
      (inRam s.cfg ea = true → Memory.wf s.ram.cells = true →
        s.memByte ea = some m ∧ t.still = ({ s with p := (f s m).1, ram := t.ram } : State).still ∧
        t.memByte ea = some (f s m).2))

/-- Every memory form of `mk` modifies its operand by `f`. -/
def ModifiesMemory (k : AccessKind) (mk : Mem → Instr) (f : State → Byte → Flags × Byte) : Prop :=
  ∀ o : Mem, ModifiesAt k (mk o) o f

/-- The accumulator form of a kind M instruction: one internal cycle, then A and the flags. -/
def ModifiesA (i : Instr) (f : State → Byte → Flags × Byte) : Prop :=
  ∀ s : State, exec i s = .next { s.tick with a := (f s s.a).2, p := (f s s.a).1 }

/-- What a relative branch does once its displacement `d` has been fetched and state `u` is reached (R320): not taken,
nothing; taken, one cycle more, and a second one if the target is on another page than the next instruction. -/
def branchEnd (taken : Bool) (d : Byte) (u : State) : State :=
  let t : Addr := BitVec.ofInt 16 ((u.pc.toNat : Int) + d.toInt)
  if taken then { u.ticks (if t.toNat / 256 = u.pc.toNat / 256 then 1 else 2) with pc := t } else u

/-- `mk` is a relative branch on `cond`. -/
def BranchesOn (mk : Byte → Instr) (cond : State → Bool) : Prop :=
  ∀ (d : Byte) (s : State),
    (readable s.cfg s.pc = true → ∃ b u, fetch s = .ok b u ∧ exec (mk d) s = .next (branchEnd (cond s) d u)) ∧
    (∀ f u, fetch s = .error f u → exec (mk d) s = .next (u.latch f))

/-- `mk` branches when bit `n` of a zero-page byte has value `b`: the byte is read once, then a cycle, then the
displacement. -/
def BranchesOnBit (mk : Byte → Byte → Instr) (n : Nat) (b : Bool) : Prop :=
  ∀ (z d : Byte) (s : State),
    (readable s.cfg s.pc = true → readable s.cfg (zeroPage z) = true → readable s.cfg (s.pc + 1) = true →
      ∃ x u m v y w, fetch s = .ok x u ∧ busRead (zeroPage z) u = .ok m v ∧ fetch v.tick = .ok y w ∧
        exec (mk z d) s = .next (branchEnd (decide (m.toNat / 2 ^ n % 2 = num b)) d w))

/-- `i` pushes a value: an internal cycle, then the push. -/
def PushesValue (i : Instr) (value : State → Byte) : Prop :=
  ∀ s : State, exec i s = finish (push (value s) s.tick) ∧
    (pushable 1 s = true → ∃ t, push (value s) s.tick = .ok () t ∧ exec i s = .next t)

/-- `i` pulls a byte and does `put` with it: two internal cycles, the pull, then the effect. -/
def PullsInto (i : Instr) (put : State → Byte → State) : Prop :=
  ∀ s : State,
    (pullable 1 s = true → ∃ v u, pull (s.ticks 2) = .ok v u ∧ exec i s = .next (put u v)) ∧
    (∀ f u, pull (s.ticks 2) = .error f u → exec i s = .next (u.latch f))

/-- An implied instruction: one internal cycle, then `f` of the state. -/
def Implied (i : Instr) (f : State → State) : Prop := ∀ s : State, exec i s = .next (f s.tick)

/-- `n` clock edges on a VIA. -/
def edges (reloads : Bool) : Nat → Via → Via
  | 0, v => v
  | n + 1, v => edges reloads n (v.clockEdge reloads).1

/-- The value of a BCD byte. -/
def dec (v : Byte) : Nat := v.toNat / 16 * 10 + v.toNat % 16

/-- The BCD encoding of a number below 100. -/
def bcd (n : Nat) : Byte := BitVec.ofNat 8 (n / 10 * 16 + n % 10)

/-- The sum of the two low digits and the carry, carried over into the high digit when it is above 9 (R241, `al`). -/
def lowSum (a m : Byte) (c : Bool) : Nat :=
  let n := a.toNat % 16 + m.toNat % 16 + num c
  if 9 < n then (n + 6) % 16 + 16 else n

/-- The signed value is outside -128..127. -/
def outsideByte (n : Int) : Bool := decide (n < -128) || decide (127 < n)

/-- The word that the pointer of an indirect mode holds in memory is `w`; true of every `w` in a direct mode. -/
def PointerHolds (s : State) (m : Mem) (w : Addr) : Prop :=
  ∀ p, pointerOf s m = some p → s.memByte (zeroPage p) = some (lo w) ∧ s.memByte (zeroPage (p + 1)) = some (hi w)

/-- The effective address of R173 to R179, `w` being the pointer's word. -/
def addressFormula (s : State) (w : Addr) : Mem → Nat
  | .zp z => z.toNat
  | .zpx z => (z.toNat + s.x.toNat) % 256
  | .zpy z => (z.toNat + s.y.toNat) % 256
  | .abs a => a.toNat
  | .abx b => (b.toNat + s.x.toNat) % 65536
  | .aby b => (b.toNat + s.y.toNat) % 65536
  | .izx _ => w.toNat
  | .izy _ => (w.toNat + s.y.toNat) % 65536
  | .izp _ => w.toNat

/-- The cycle that indexing a base with low byte `l` by `i` costs (R176, R178). -/
def indexCost (k : AccessKind) (l i : Nat) : Nat := if k = .write ∨ k = .incDec ∨ 255 < l + i then 1 else 0

/-- The cycles of forming the effective address, without the opcode fetch (R173 to R179). -/
def addressCost (k : AccessKind) (s : State) (w : Addr) : Mem → Nat
  | .zp _ => 1
  | .zpx _ | .zpy _ => 2
  | .abs _ => 2
  | .abx b => 2 + indexCost k (b.toNat % 256) s.x.toNat
  | .aby b => 2 + indexCost k (b.toNat % 256) s.y.toNat
  | .izx _ => 4
  | .izy _ => 3 + indexCost k (w.toNat % 256) s.y.toNat
  | .izp _ => 3

/-- Taking an exception from `s` ended in `t`: `pc` and the status `p` are on the stack, high byte of `pc` first, SP is
three less, I is set and D cleared, and the rest of the CPU but PC, and of memory, is as it was. -/
structure Entered (s t : State) (pc : Addr) (p : Byte) : Prop where
  sp_is : t.sp.toNat = (s.sp.toNat + 253) % 256
  flags_are : t.p = { s.p with i := true, d := false }
  pushed_high : t.memByte (stackAddr s.sp) = some (hi pc)
  pushed_low : t.memByte (stackAddr (s.sp - 1)) = some (lo pc)
  pushed_status : t.memByte (stackAddr (s.sp - 2)) = some p
  memory_kept : ∀ b, b ≠ stackAddr s.sp → b ≠ stackAddr (s.sp - 1) → b ≠ stackAddr (s.sp - 2) →
    t.memByte b = s.memByte b
  rest_kept : t.still = ({ s with sp := t.sp, p := t.p, ram := t.ram } : State).still

end Sys2Proof.Claims

open Sys2Proof Sys2Proof.Machine Sys2Proof.Claims

/-! ## Encoding -/

/-- R140, R142, R143, R145, R147: a well-formed instruction's bytes decode to it, with every operand at every value, at
every level that has it, and what follows them is left over. -/
def Obligations.DecodeOfEncodeIsTheInstruction : Prop :=
  ∀ (lvl : IsaLevel) (i : Instr) (rest : List Byte), i.wellFormed lvl = true →
    decode lvl (encode i ++ rest) = .ok (i, rest)

/-- The other direction: whatever decodes is well-formed at the level, the bytes are its encoding, and their number is
the length of its format (R140). -/
def Obligations.DecodedBytesAreTheEncoding : Prop :=
  ∀ (lvl : IsaLevel) (bytes rest : List Byte) (i : Instr), decode lvl bytes = .ok (i, rest) →
    i.wellFormed lvl = true ∧ bytes = encode i ++ rest ∧ (encode i).length = i.format.length

/-- R142, R140, R146, R147: decoding is total and the opcode byte alone fixes the length; and which opcode bytes are
illegal at each level. At the base level those with low nibble 7 or F (RMB, SMB, BBR, BBS) as well, below the top level
0xCB and 0xDB. -/
def Obligations.DecodingIsTotalAndGatedByLevel : Prop :=
  ∀ (lvl : IsaLevel) (op : Byte),
    (∃ n, 1 ≤ n ∧ n ≤ 3 ∧ ∀ operands rest : List Byte, operands.length + 1 = n →
      ∃ i, decode lvl (op :: operands ++ rest) = .ok (i, rest) ∧ i.format.length = n) ∧
    ∀ rest : List Byte, rest.length = 2 → (decode lvl (op :: rest) = .ok (.illegal op, rest) ↔
      op ∈ illegalBytes ∨ (lvl ≠ .w65c02s ∧ (op = 0xCB ∨ op = 0xDB)) ∨
      (lvl = .c02Base ∧ (op.toNat % 16 = 7 ∨ op.toNat % 16 = 15)))

/-- Nine words written out from the matrix of R145 and the operand order of R143: of the formats imm, abs (twice), zp, zpr,
ind, acc and izy, and an illegal byte. -/
def Obligations.WrittenWordsDecode : Prop :=
  decode .w65c02s [0xA9, 0x42] = .ok (.lda (.imm 0x42), []) ∧
  decode .w65c02s [0x8D, 0x00, 0x02] = .ok (.sta (.abs 0x0200), []) ∧
  decode .w65c02s [0x37, 0x10] = .ok (.rmb3 0x10, []) ∧
  decode .w65c02s [0xFF, 0x10, 0xFD] = .ok (.bbs7 0x10 0xFD, []) ∧
  decode .w65c02s [0x6C, 0xFF, 0x12] = .ok (.jmp (.ind 0x12FF), []) ∧
  decode .w65c02s [0x20, 0x00, 0xE1] = .ok (.jsr 0xE100, []) ∧
  decode .w65c02s [0x3A, 0x99] = .ok (.dec .acc, [0x99]) ∧
  decode .w65c02s [0xB1, 0x80] = .ok (.lda (.mem (.izy 0x80)), []) ∧
  decode .w65c02s [0x02] = .ok (.illegal 0x02, [])

/-! ## The step -/

/-- R400 steps 3 to 6: when no interrupt is entered and the bytes at PC are those of a well-formed instruction, the step
spends the opcode's cycle, moves PC one on, and is `exec` of that instruction. -/
def Obligations.StepRunsTheDecodedInstruction : Prop :=
  ∀ (s : State) (i : Instr), s.fault = none → s.mode = .run → s.pendingNmi = false →
    (s.pendingIrq = true → s.p.i = true) → i.wellFormed s.cfg.isaLevel = true →
    (∀ k b, (encode i)[k]? = some b → s.memByte (s.pc + BitVec.ofNat 16 k) = some b) →
    step s = exec i { s.tick with pc := s.pc + 1 }

/-- R146, R405, R402, R404: the step on one of the 44 bytes spends its fetch and latches `IllegalOpcode` with the byte and
its address; PC is one past it and nothing else changes. The fetch of an opcode that cannot be read latches the fault of
its address; the cycle is spent and PC has not moved. -/
def Obligations.IllegalAndUnreadableOpcodesLatchFaults : Prop :=
  (∀ (op : Byte) (s : State), exec (.illegal op) s = .next (s.latch (.illegalOpcode op (s.pc - 1)))) ∧
  (∀ s : State, s.fault = none → s.mode = .run → s.pendingNmi = false → (s.pendingIrq = true → s.p.i = true) →
    (∀ op, op ∈ illegalBytes → s.memByte s.pc = some op →
      step s = .next (({ s.tick with pc := s.pc + 1 } : State).latch (.illegalOpcode op s.pc))) ∧
    (target s.cfg s.pc = .hole → step s = .next (s.tick.latch (.deviceHole s.pc .read))) ∧
    (target s.cfg s.pc = .fallback → s.cfg.strictUnmapped = true →
      step s = .next (s.tick.latch (.unmapped s.pc .read))))

/-- R377, R378, R414, R400 step 2: WAI and STP spend two internal cycles and set the mode; a stopped machine's step does
nothing; a waiting one's spends a cycle until an interrupt is pending, and then is as if the machine had not waited; a
faulted machine refuses. -/
def Obligations.WaitStopAndFaultedModes : Prop :=
  ∀ s : State,
    exec .wai s = .next { s.ticks 2 with mode := .wait } ∧ exec .stp s = .next { s.ticks 2 with mode := .stop } ∧
    (∀ f, s.fault = some f → step s = .refused (.latched f)) ∧
    (s.fault = none → s.mode = .stop → step s = .next s) ∧
    (s.fault = none → s.mode = .wait → s.pendingNmi = false → s.pendingIrq = false → step s = .next s.tick) ∧
    (s.fault = none → s.mode = .wait → (s.pendingNmi = true ∨ s.pendingIrq = true) →
      step s = step { s with mode := .run })

/-! ## Exceptions -/

/-- R420, R421: interrupt entry. With the stack in RAM and the vector in memory it succeeds, takes seven cycles, and
leaves what the rule says; the pushed status has bit 4 clear and bit 5 set. -/
def Obligations.InterruptEntrySavesAndVectors : Prop :=
  ∀ (s : State) (vec v : Addr), vec = 0xFFFA ∨ vec = 0xFFFE → Memory.wf s.ram.cells = true →
    pushesToRam 3 s = true → s.memByte vec = some (lo v) → s.memByte (vec + 1) = some (hi v) →
    ∃ t, enterInterrupt vec s = .ok () t ∧ t.pc = v ∧ t.cycles = (s.ticks 7).cycles ∧
      Entered s t s.pc (BitVec.ofNat 8 (num s.p.n * 128 + num s.p.v * 64 + 32 + num s.p.d * 8 + num s.p.i * 4 +
        num s.p.z * 2 + num s.p.c))

/-- R419, R411, R412, R410: NMI goes first and ignores I; IRQ is taken only while I is clear; only the latch of the
interrupt taken is cleared, before the entry; the same step then runs the handler's first instruction. -/
def Obligations.PollTakesNmiBeforeIrq : Prop :=
  ∀ s : State,
    (s.pendingNmi = true → ∀ u, enterInterrupt 0xFFFA { s with pendingNmi := false } = .ok () u →
      pollInterrupts s = .ok (some .nmi) u ∧ (s.pendingIrq = true → u.pendingIrq = true) ∧
      (s.fault = none → s.mode = .run → ∀ op, u.memByte u.pc = some op →
        step s = exec (instrAt op { u.tick with pc := u.pc + 1 }) { u.tick with pc := u.pc + 1 })) ∧
    (s.pendingNmi = false → s.pendingIrq = true → s.p.i = false →
      ∀ u, enterInterrupt 0xFFFE { s with pendingIrq := false } = .ok () u →
      pollInterrupts s = .ok (some .irq) u ∧
      (s.fault = none → s.mode = .run → ∀ op, u.memByte u.pc = some op →
        step s = exec (instrAt op { u.tick with pc := u.pc + 1 }) { u.tick with pc := u.pc + 1 })) ∧
    (s.pendingNmi = false → (s.pendingIrq = true → s.p.i = true) → pollInterrupts s = .ok none s)

/-- R336, R413: BRK. In `fatal` mode it raises `Break` with the opcode's address before anything else. In `architectural`
mode the padding byte is fetched, PC past it and the status with bits 5 and 4 set are pushed, I is set and D cleared, PC
comes from 0xFFFE; six cycles after the opcode's. -/
def Obligations.BrkTakesTheSoftwareInterrupt : Prop :=
  (∀ (s : State) (pad : Byte), s.cfg.brkMode = .fatal → exec (.brk pad) s = .next (s.latch (.brk (s.pc - 1)))) ∧
  (∀ (s : State) (pad : Byte) (v : Addr), s.cfg.brkMode = .architectural → Memory.wf s.ram.cells = true →
    readable s.cfg s.pc = true → pushesToRam 3 s = true →
    s.memByte 0xFFFE = some (lo v) → s.memByte 0xFFFF = some (hi v) →
    ∃ t, exec (.brk pad) s = .next t ∧ t.pc = v ∧ t.cycles = (s.ticks 6).cycles ∧
      Entered s t (s.pc + 1) (BitVec.ofNat 8 (num s.p.n * 128 + num s.p.v * 64 + 48 + num s.p.d * 8 + num s.p.i * 4 +
        num s.p.z * 2 + num s.p.c)))

/-- R335, R422: RTI pulls the status, then PC, low byte first and nothing added; the stored B is not touched. -/
def Obligations.RtiRestoresStatusAndPc : Prop :=
  (∀ (s : State), pullable 3 s = true → ∃ p u l v h w, pull (s.ticks 2) = .ok p u ∧
    pull { u with p := ⟨bit p 7, bit p 6, s.p.b, bit p 3, bit p 2, bit p 1, bit p 0⟩ } = .ok l v ∧
    pull v = .ok h w ∧ exec .rti s = .next { w with pc := join h l }) ∧
  (∀ (s : State) (p l h : Byte), s.memByte (stackAddr (s.sp + 1)) = some p →
    s.memByte (stackAddr (s.sp + 2)) = some l → s.memByte (stackAddr (s.sp + 3)) = some h →
    ∃ t, exec .rti s = .next t ∧ t.pc.toNat = h.toNat * 256 + l.toNat ∧ t.cycles = (s.ticks 5).cycles ∧
      t.still = ({ s with
        sp := s.sp + 3
        p := ⟨bit p 7, bit p 6, s.p.b, bit p 3, bit p 2, bit p 1, bit p 0⟩ } : State).still) ∧
  encode .rti = [0x40]

/-! ## Addressing -/

/-- R173 to R179, R185: forming an effective address. It succeeds when the operand bytes and the pointer can be read;
it changes nothing but the clock, devices read on the way, and PC, which moves past the operand; and the address and the
cycles are those of the rules, `w` being the word the pointer holds. -/
def Obligations.EffectiveAddressesFollowTheModes : Prop :=
  ∀ (k : AccessKind) (m : Mem) (s : State), addressable m s = true →
    ∃ ea t, effectiveAddress k m s = .ok ea t ∧ t.still = s.still ∧
      t.pc = s.pc + BitVec.ofNat 16 (m.format.length - 1) ∧
      ∀ w, PointerHolds s m w → ea.toNat = addressFormula s w m ∧ t.cycles = (s.ticks (addressCost k s w m)).cycles

/-- R186, R172, R141: reading an operand. Immediate: the byte after the opcode, one cycle. In memory: the effective
address, then one bus read, which gives the byte memory holds there. -/
def Obligations.OperandIsTheAddressedByte : Prop :=
  (∀ (v : Byte) (s : State), readable s.cfg s.pc = true →
    ∃ u, readOperand (.imm v) s = .ok v u ∧ u.still = s.still ∧ u.pc = s.pc + 1 ∧ u.cycles = s.tick.cycles) ∧
  (∀ (m : Mem) (s u : State) (ea : Addr) (v : Byte), effectiveAddress .read m s = .ok ea u → s.memByte ea = some v →
    readOperand (.mem m) s = .ok v u.tick)

/-! ## Loads, stores, transfers -/

/-- R200, R201, R202, with the opcodes those rules list. -/
def Obligations.LoadsSetRegisterAndNZ : Prop :=
  Loads .lda (fun u m => { u with a := m }) ∧ Loads .ldx (fun u m => { u with x := m }) ∧
  Loads .ldy (fun u m => { u with y := m }) ∧
  ∀ o : ReadOp,
    (∀ e, e ∈ (Instr.lda o).opcodes ↔ e ∈ [(Format.imm, 0xA9#8), (.zp, 0xA5), (.zpx, 0xB5), (.abs, 0xAD), (.abx, 0xBD),
      (.aby, 0xB9), (.izx, 0xA1), (.izy, 0xB1), (.izp, 0xB2)]) ∧
    (∀ e, e ∈ (Instr.ldx o).opcodes ↔ e ∈ [(Format.imm, 0xA2#8), (.zp, 0xA6), (.zpy, 0xB6), (.abs, 0xAE), (.aby, 0xBE)]) ∧
    (∀ e, e ∈ (Instr.ldy o).opcodes ↔ e ∈ [(Format.imm, 0xA0#8), (.zp, 0xA4), (.zpx, 0xB4), (.abs, 0xAC), (.abx, 0xBC)])

/-- R203 to R206: the stores. -/
def Obligations.StoresWriteTheRegister : Prop :=
  StoresValue .sta State.a ∧ StoresValue .stx State.x ∧ StoresValue .sty State.y ∧ StoresValue .stz (fun _ => 0x00)

/-- R207 to R212: the transfers, two cycles each; TXS alone leaves N and Z. -/
def Obligations.TransfersCopyRegisters : Prop :=
  Implied .tax (fun t => { t with x := t.a, p := withNZ t.p t.a }) ∧
  Implied .tay (fun t => { t with y := t.a, p := withNZ t.p t.a }) ∧
  Implied .txa (fun t => { t with a := t.x, p := withNZ t.p t.x }) ∧
  Implied .tya (fun t => { t with a := t.y, p := withNZ t.p t.y }) ∧
  Implied .tsx (fun t => { t with x := t.sp, p := withNZ t.p t.sp }) ∧
  Implied .txs (fun t => { t with sp := t.x }) ∧
  encode .tax = [0xAA] ∧ encode .tay = [0xA8] ∧ encode .txa = [0x8A] ∧ encode .tya = [0x98] ∧ encode .tsx = [0xBA] ∧
  encode .txs = [0x9A]

/-! ## Arithmetic and logic -/

/-- R240, R243, R244, R258: binary ADC and SBC. The sum A + M + C, or the difference A - M - (1 - C), is exact; C is the
carry out of bit 7, or that no borrow occurred; V says that the signed value is outside -128..127. -/
def Obligations.BinaryAddAndSubtract : Prop :=
  ∀ (o : ReadOp) (s : State), operandReads s o = true → s.p.d = false → ∃ m u, readOperand o s = .ok m u ∧
    (∃ r, r = BitVec.ofNat 8 (s.a.toNat + m.toNat + num s.p.c) ∧
      exec (.adc o) s = .next { u with
        a := r
        p := { withNZ u.p r with
          c := decide (255 < s.a.toNat + m.toNat + num s.p.c)
          v := outsideByte (s.a.toInt + m.toInt + num s.p.c) } }) ∧
    (∃ r, r = BitVec.ofInt 8 (s.a.toNat - m.toNat - (1 - num s.p.c)) ∧
      exec (.sbc o) s = .next { u with
        a := r
        p := { withNZ u.p r with
          c := decide (m.toNat + (1 - num s.p.c) ≤ s.a.toNat)
          v := outsideByte (s.a.toInt - m.toInt - (1 - num s.p.c)) } })

/-- R241, R242, R243, R244: decimal ADC and SBC of two BCD bytes. The result is the BCD of the sum or difference modulo
100; C says that the sum is above 99, or that no borrow occurred; V is, for ADC, that the signed sum of the two high
digits and the low sum is outside -128..127, and for SBC that of the binary subtraction; one more cycle is spent. -/
def Obligations.DecimalAddAndSubtract : Prop :=
  ∀ (o : ReadOp) (s : State), operandReads s o = true → s.p.d = true → validBcd s.a = true →
    ∃ m u, readOperand o s = .ok m u ∧ (validBcd m = true →
      (∃ r, r = bcd ((dec s.a + dec m + num s.p.c) % 100) ∧
        exec (.adc o) s = .next { u.tick with
          a := r
          p := { withNZ u.p r with
            c := decide (99 < dec s.a + dec m + num s.p.c)
            v := outsideByte ((s.a &&& 0xF0).toInt + (m &&& 0xF0).toInt + lowSum s.a m s.p.c) } }) ∧
      (∃ r, r = bcd ((dec s.a + 100 - dec m - (1 - num s.p.c)) % 100) ∧
        exec (.sbc o) s = .next { u.tick with
          a := r
          p := { withNZ u.p r with
            c := decide (dec m + (1 - num s.p.c) ≤ dec s.a)
            v := outsideByte (s.a.toInt - m.toInt - (1 - num s.p.c)) } }))

/-- U3, log 5: decimal ADC and SBC with a nibble above 9 run to their end with A, N, V, Z and C at some value; the extra
cycle, PC, B, D, I and everything else are as the rules say. `draws` is the model's counter of free values. -/
def Obligations.InvalidBcdLeavesFiveOpenValues : Prop :=
  ∀ (o : ReadOp) (s : State), operandReads s o = true → s.p.d = true →
    ∃ m u, readOperand o s = .ok m u ∧ ((validBcd s.a && validBcd m) = false →
      (∃ a n v z c, exec (.adc o) s = .next { u.tick with
        a := a, p := { u.p with n := n, v := v, z := z, c := c }, draws := u.draws + 1 }) ∧
      (∃ a n v z c, exec (.sbc o) s = .next { u.tick with
        a := a, p := { u.p with n := n, v := v, z := z, c := c }, draws := u.draws + 1 }))

/-- R245, R246, R247. -/
def Obligations.LogicCombinesWithA : Prop :=
  Combines .and (fun a m => a &&& m) ∧ Combines .ora (fun a m => a ||| m) ∧ Combines .eor (fun a m => a ^^^ m)

/-- R248, R249, R250: the register and V are not touched. -/
def Obligations.ComparesSetNZC : Prop := Compares .cmp State.a ∧ Compares .cpx State.x ∧ Compares .cpy State.y

/-- R251: BIT. Z from A & M in every form; N and V from bits 7 and 6 of the byte, but not in the immediate form. -/
def Obligations.BitTestsTheOperand : Prop :=
  ∀ s : State,
    (∀ (m : Mem), operandReads s (.mem m) = true → ∃ v u, readOperand (.mem m) s = .ok v u ∧
      exec (.bit (.mem m)) s = .next { u with p :=
        { u.p with z := decide (s.a &&& v = 0), n := decide (128 ≤ v.toNat), v := decide (64 ≤ v.toNat % 128) } }) ∧
    (∀ (v : Byte), operandReads s (.imm v) = true → ∃ u, readOperand (.imm v) s = .ok v u ∧
      exec (.bit (.imm v)) s = .next { u with p := { u.p with z := decide (s.a &&& v = 0) } }) ∧
    (∀ (o : ReadOp) f u, readOperand o s = .error f u → exec (.bit o) s = .next (u.latch f))

/-- R252 to R257: INC and DEC of memory and of A, INX, INY, DEX, DEY: one up or down modulo 256, N and Z from the result,
C and V untouched. -/
def Obligations.IncrementsAndDecrementsWrap : Prop :=
  let up (v : Byte) : Byte := BitVec.ofNat 8 (v.toNat + 1)
  let down (v : Byte) : Byte := BitVec.ofNat 8 (v.toNat + 255)
  ModifiesMemory .incDec (fun o => .inc (.mem o)) (fun s m => (withNZ s.p (up m), up m)) ∧
  ModifiesA (.inc .acc) (fun s m => (withNZ s.p (up m), up m)) ∧
  ModifiesMemory .incDec (fun o => .dec (.mem o)) (fun s m => (withNZ s.p (down m), down m)) ∧
  ModifiesA (.dec .acc) (fun s m => (withNZ s.p (down m), down m)) ∧
  Implied .inx (fun t => { t with x := up t.x, p := withNZ t.p (up t.x) }) ∧
  Implied .iny (fun t => { t with y := up t.y, p := withNZ t.p (up t.y) }) ∧
  Implied .dex (fun t => { t with x := down t.x, p := withNZ t.p (down t.x) }) ∧
  Implied .dey (fun t => { t with y := down t.y, p := withNZ t.p (down t.y) })

/-! ## Shifts and bit operations -/

/-- R280 to R283: the shifts and rotates, in memory and on A. -/
def Obligations.ShiftsMoveOneBit : Prop :=
  let asl : State → Byte → Flags × Byte := fun s m =>
    ({ withNZ s.p (BitVec.ofNat 8 (m.toNat * 2)) with c := decide (128 ≤ m.toNat) }, BitVec.ofNat 8 (m.toNat * 2))
  let lsr : State → Byte → Flags × Byte := fun s m =>
    ({ withNZ s.p (BitVec.ofNat 8 (m.toNat / 2)) with c := decide (m.toNat % 2 = 1) }, BitVec.ofNat 8 (m.toNat / 2))
  let rol : State → Byte → Flags × Byte := fun s m =>
    ({ withNZ s.p (BitVec.ofNat 8 (m.toNat * 2 + num s.p.c)) with c := decide (128 ≤ m.toNat) },
      BitVec.ofNat 8 (m.toNat * 2 + num s.p.c))
  let ror : State → Byte → Flags × Byte := fun s m =>
    ({ withNZ s.p (BitVec.ofNat 8 (m.toNat / 2 + num s.p.c * 128)) with c := decide (m.toNat % 2 = 1) },
      BitVec.ofNat 8 (m.toNat / 2 + num s.p.c * 128))
  (ModifiesMemory .shift (fun o => .asl (.mem o)) asl ∧ ModifiesA (.asl .acc) asl) ∧
  (ModifiesMemory .shift (fun o => .lsr (.mem o)) lsr ∧ ModifiesA (.lsr .acc) lsr) ∧
  (ModifiesMemory .shift (fun o => .rol (.mem o)) rol ∧ ModifiesA (.rol .acc) rol) ∧
  (ModifiesMemory .shift (fun o => .ror (.mem o)) ror ∧ ModifiesA (.ror .acc) ror)

/-- R284, R285: TSB and TRB; Z from A & M before the change, no other flag. -/
def Obligations.TsbTrbSetAndResetBits : Prop :=
  ModifiesMemory .shift .tsb (fun s m => ({ s.p with z := decide (s.a &&& m = 0) }, m ||| s.a)) ∧
  ModifiesMemory .shift .trb (fun s m => ({ s.p with z := decide (s.a &&& m = 0) }, m &&& ~~~s.a))

/-- R286, R287: RMBn clears and SMBn sets bit n of a zero-page byte, n from the opcode; no flag. -/
def Obligations.RmbAndSmbChangeTheirBit : Prop :=
  let clear (n : Nat) : State → Byte → Flags × Byte := fun s m =>
    (s.p, BitVec.ofNat 8 (m.toNat - m.toNat / 2 ^ n % 2 * 2 ^ n))
  let set (n : Nat) : State → Byte → Flags × Byte := fun s m =>
    (s.p, BitVec.ofNat 8 (m.toNat + (1 - m.toNat / 2 ^ n % 2) * 2 ^ n))
  let Does (mk : Byte → Instr) (first n : Nat) (f : State → Byte → Flags × Byte) : Prop :=
    ∀ z, ModifiesAt .shift (mk z) (.zp z) f ∧ encode (mk z) = [BitVec.ofNat 8 (first + 0x10 * n), z]
  (Does .rmb0 0x07 0 (clear 0) ∧ Does .rmb1 0x07 1 (clear 1) ∧ Does .rmb2 0x07 2 (clear 2) ∧
   Does .rmb3 0x07 3 (clear 3) ∧ Does .rmb4 0x07 4 (clear 4) ∧ Does .rmb5 0x07 5 (clear 5) ∧
   Does .rmb6 0x07 6 (clear 6) ∧ Does .rmb7 0x07 7 (clear 7)) ∧
  (Does .smb0 0x87 0 (set 0) ∧ Does .smb1 0x87 1 (set 1) ∧ Does .smb2 0x87 2 (set 2) ∧
   Does .smb3 0x87 3 (set 3) ∧ Does .smb4 0x87 4 (set 4) ∧ Does .smb5 0x87 5 (set 5) ∧
   Does .smb6 0x87 6 (set 6) ∧ Does .smb7 0x87 7 (set 7))

/-! ## Control transfer -/

/-- R320 to R329: the relative branches and their conditions. -/
def Obligations.BranchesFollowTheirFlag : Prop :=
  BranchesOn .bcc (fun s => !s.p.c) ∧ BranchesOn .bcs (fun s => s.p.c) ∧
  BranchesOn .bne (fun s => !s.p.z) ∧ BranchesOn .beq (fun s => s.p.z) ∧
  BranchesOn .bpl (fun s => !s.p.n) ∧ BranchesOn .bmi (fun s => s.p.n) ∧
  BranchesOn .bvc (fun s => !s.p.v) ∧ BranchesOn .bvs (fun s => s.p.v) ∧ BranchesOn .bra (fun _ => true)

/-- R330, R331: BBRn branches when bit n is 0, BBSn when it is 1. -/
def Obligations.BitBranchesTestTheirBit : Prop :=
  (BranchesOnBit .bbr0 0 false ∧ BranchesOnBit .bbr1 1 false ∧ BranchesOnBit .bbr2 2 false ∧ BranchesOnBit .bbr3 3 false ∧
   BranchesOnBit .bbr4 4 false ∧ BranchesOnBit .bbr5 5 false ∧ BranchesOnBit .bbr6 6 false ∧ BranchesOnBit .bbr7 7 false) ∧
  (BranchesOnBit .bbs0 0 true ∧ BranchesOnBit .bbs1 1 true ∧ BranchesOnBit .bbs2 2 true ∧ BranchesOnBit .bbs3 3 true ∧
   BranchesOnBit .bbs4 4 true ∧ BranchesOnBit .bbs5 5 true ∧ BranchesOnBit .bbs6 6 true ∧ BranchesOnBit .bbs7 7 true)

/-- R332, R182: JMP. The pointer's high byte comes from `p + 1` with full 16-bit carry; `iax` adds X to the pointer
address. -/
def Obligations.JmpGoesToItsTarget : Prop :=
  ∀ s : State, readable s.cfg s.pc = true → readable s.cfg (s.pc + 1) = true →
    (∀ t : Addr, ∃ u, operandAddr t s = .ok t u ∧ u.cycles = (s.ticks 2).cycles ∧
      exec (.jmp (.abs t)) s = .next { u with pc := t }) ∧
    (∀ p : Addr, readable s.cfg p = true → readable s.cfg (p + 1) = true →
      ∃ u l v h w, operandAddr p s = .ok p u ∧ busRead p u.tick = .ok l v ∧ busRead (p + 1) v = .ok h w ∧
        exec (.jmp (.ind p)) s = .next { w with pc := BitVec.ofNat 16 (h.toNat * 256 + l.toNat) }) ∧
    (∀ b p : Addr, p.toNat = (b.toNat + s.x.toNat) % 65536 → readable s.cfg p = true → readable s.cfg (p + 1) = true →
      ∃ u l v h w, operandAddr b s = .ok b u ∧ busRead p u.tick = .ok l v ∧ busRead (p + 1) v = .ok h w ∧
        exec (.jmp (.iax b)) s = .next { w with pc := BitVec.ofNat 16 (h.toNat * 256 + l.toNat) })

/-- R333, R334: JSR and RTS. JSR: both operand bytes, an internal cycle, then the return address minus one is pushed, high
byte first: the address of the JSR's last byte, which is PC + 1 as `exec` finds PC. RTS: two internal cycles, the low
byte and the high byte are pulled, a third internal cycle, and PC goes one past that address. -/
def Obligations.JsrAndRtsCallAndReturn : Prop :=
  (∀ (target : Addr) (s : State), fetchable 2 s = true → pushable 2 s = true →
    ∃ u v w, operandAddr target s = .ok target u ∧ push (hi (s.pc + 1)) u.tick = .ok () v ∧
      push (lo (s.pc + 1)) v = .ok () w ∧ exec (.jsr target) s = .next { w with pc := target }) ∧
  (∀ (target : Addr) (s : State), fetchable 2 s = true → pushesToRam 2 s = true → Memory.wf s.ram.cells = true →
    ∃ t, exec (.jsr target) s = .next t ∧ t.pc = target ∧ t.cycles = (s.ticks 5).cycles ∧
      t.memByte (stackAddr s.sp) = some (hi (s.pc + 1)) ∧ t.memByte (stackAddr (s.sp - 1)) = some (lo (s.pc + 1)) ∧
      (∀ b, b ≠ stackAddr s.sp → b ≠ stackAddr (s.sp - 1) → t.memByte b = s.memByte b) ∧
      t.still = ({ s with sp := s.sp - 2, ram := t.ram } : State).still) ∧
  (∀ s : State, pullable 2 s = true → ∃ l u h v, pull (s.ticks 2) = .ok l u ∧ pull u = .ok h v ∧
    exec .rts s = .next { v.tick with pc := BitVec.ofNat 16 (h.toNat * 256 + l.toNat + 1) }) ∧
  (∀ (s : State) (l h : Byte), s.memByte (stackAddr (s.sp + 1)) = some l → s.memByte (stackAddr (s.sp + 2)) = some h →
    ∃ t, exec .rts s = .next t ∧ t.pc = BitVec.ofNat 16 (h.toNat * 256 + l.toNat + 1) ∧
      t.cycles = (s.ticks 5).cycles ∧ t.still = ({ s with sp := s.sp + 2 } : State).still) ∧
  (∀ target : Addr, encode (.jsr target) = [0x20, lo target, hi target]) ∧ encode .rts = [0x60]

/-! ## Stack, flags, system -/

/-- R360: the stack primitives. A push writes at 0x01 ++ SP and then decrements SP, which wraps; a push that faults has
not moved SP. A pull increments SP, which wraps, and then reads at 0x01 ++ SP; a pull that faults has moved it. -/
def Obligations.StackPrimitivesPushAndPull : Prop :=
  ∀ s : State,
    (∀ v, writable s.cfg (stackAddr s.sp) = true →
      ∃ t, busWrite (BitVec.ofNat 16 (0x100 + s.sp.toNat)) v s = .ok () t ∧
        push v s = .ok () { t with sp := BitVec.ofNat 8 (s.sp.toNat + 255) } ∧
        (inRam s.cfg (stackAddr s.sp) = true → Memory.wf s.ram.cells = true → t.memByte (stackAddr s.sp) = some v ∧
          ∀ b, b ≠ stackAddr s.sp → t.memByte b = s.memByte b)) ∧
    (∀ v f t, push v s = .error f t → t.sp = s.sp) ∧
    (readable s.cfg (stackAddr (s.sp + 1)) = true →
      ∃ v t, busRead (BitVec.ofNat 16 (0x100 + (s.sp.toNat + 1) % 256))
          { s with sp := BitVec.ofNat 8 (s.sp.toNat + 1) } = .ok v t ∧ pull s = .ok v t) ∧
    (∀ f t, pull s = .error f t → t.sp.toNat = (s.sp.toNat + 1) % 256)

/-- R361 to R364, R25: the pushes; PHP pushes the status with bits 5 and 4 set. -/
def Obligations.PushesStoreTheirRegister : Prop :=
  PushesValue .pha State.a ∧ PushesValue .phx State.x ∧ PushesValue .phy State.y ∧
  PushesValue .php (fun s => BitVec.ofNat 8 (num s.p.n * 128 + num s.p.v * 64 + 48 + num s.p.d * 8 + num s.p.i * 4 +
    num s.p.z * 2 + num s.p.c)) ∧
  encode .pha = [0x48] ∧ encode .phx = [0xDA] ∧ encode .phy = [0x5A] ∧ encode .php = [0x08]

/-- R365 to R368, R25: the pulls; PLP ignores bits 5 and 4 of the byte and keeps the stored B. -/
def Obligations.PullsLoadTheirRegister : Prop :=
  PullsInto .pla (fun u v => { u with a := v, p := withNZ u.p v }) ∧
  PullsInto .plx (fun u v => { u with x := v, p := withNZ u.p v }) ∧
  PullsInto .ply (fun u v => { u with y := v, p := withNZ u.p v }) ∧
  PullsInto .plp (fun u v => { u with p := ⟨bit v 7, bit v 6, u.p.b, bit v 3, bit v 2, bit v 1, bit v 0⟩ }) ∧
  encode .pla = [0x68] ∧ encode .plx = [0xFA] ∧ encode .ply = [0x7A] ∧ encode .plp = [0x28]

/-- R369 to R376: the flag instructions and NOP, two cycles each, nothing else. -/
def Obligations.FlagInstructionsAndNop : Prop :=
  Implied .clc (fun t => { t with p := { t.p with c := false } }) ∧
  Implied .sec (fun t => { t with p := { t.p with c := true } }) ∧
  Implied .cli (fun t => { t with p := { t.p with i := false } }) ∧
  Implied .sei (fun t => { t with p := { t.p with i := true } }) ∧
  Implied .cld (fun t => { t with p := { t.p with d := false } }) ∧
  Implied .sed (fun t => { t with p := { t.p with d := true } }) ∧
  Implied .clv (fun t => { t with p := { t.p with v := false } }) ∧
  Implied .nop (fun t => t) ∧
  encode .clc = [0x18] ∧ encode .sec = [0x38] ∧ encode .cli = [0x58] ∧ encode .sei = [0x78] ∧ encode .cld = [0xD8] ∧
  encode .sed = [0xF8] ∧ encode .clv = [0xB8] ∧ encode .nop = [0xEA]

/-! ## Frames -/

/-- R23: no instruction, and no fault inside one, writes a register that the rule's table does not give it. -/
def Obligations.OnlyListedRegistersChange : Prop :=
  ∀ (i : Instr) (s t : State) (r : Reg), exec i s = .next t → r ∉ writtenRegs i → t.reg r = s.reg r

/-- R24: no instruction writes a flag that the rule's table does not give it; the stored B is never written (R25). -/
def Obligations.OnlyListedFlagsChange : Prop :=
  ∀ (i : Instr) (s t : State) (f : FlagName), exec i s = .next t → f ∉ writtenFlags i → t.p.get f = s.p.get f

/-- Memory frame: an instruction that stores nothing leaves every byte of memory alone; one that stores to its operand
leaves every byte but the one at its effective address, and all of them if no address was formed; one that pushes leaves
every byte but those at the stack addresses it pushes to. -/
def Obligations.OnlyTheStoredBytesChange : Prop :=
  ∀ (i : Instr) (s t : State), exec i s = .next t → ∀ a : Addr,
    (storesOf i = .nothing → t.memByte a = s.memByte a) ∧
    (∀ k m ea u, storesOf i = .operand k m → effectiveAddress k m s = .ok ea u → a ≠ ea → t.memByte a = s.memByte a) ∧
    (∀ k m f u, storesOf i = .operand k m → effectiveAddress k m s = .error f u → t.memByte a = s.memByte a) ∧
    (∀ n, storesOf i = .stack n → (∀ j, j < n → a ≠ stackAddr (s.sp - BitVec.ofNat 8 j)) → t.memByte a = s.memByte a)

/-- R27, R29, R32, R111, R114, R411, R412, R506, R521: what no instruction changes: the configuration, `running`, both
ROMs and every bank pointer, the ACIA's lines. And what it changes in one way only: the mode by WAI and STP alone; a pending
interrupt may be latched but not taken back; TX may grow but loses no byte. -/
def Obligations.InstructionsLeaveHostStateAlone : Prop :=
  ∀ (i : Instr) (s t : State), exec i s = .next t →
    t.cfg = s.cfg ∧ t.running = s.running ∧ t.brom = s.brom ∧ t.srom = s.srom ∧ t.ram.bank = s.ram.bank ∧
    t.acia.dsrAsserted = s.acia.dsrAsserted ∧ t.acia.dcdAsserted = s.acia.dcdAsserted ∧
    (i ≠ .wai → i ≠ .stp → t.mode = s.mode) ∧
    (s.pendingNmi = true → t.pendingNmi = true) ∧ (s.pendingIrq = true → t.pendingIrq = true) ∧
    s.acia.tx <+: t.acia.tx

/-! ## Whole-machine rules -/

/-- The reset state is legal. -/
def Obligations.ResetStateIsLegal : Prop := State.reset.Inv

/-- A step from a legal state leads to a legal state: canonical memories inside their devices, legal bank pointers, the
parity bit clear and `port` as CTL says, the counter below 2^CYCLE_BITS, the stored B false, `mode` RUN below the top
level. -/
def Obligations.StepKeepsLegalStates : Prop := ∀ s t : State, s.Inv → step s = .next t → t.Inv

/-- Every host event keeps legal states legal. -/
def Obligations.HostEventsKeepLegalStates : Prop := ∀ (s : State) (e : HostEvent), s.Inv → (applyHost s e).Inv

/-- R111, R114, R27, R521, R506: over one step, interrupt entry included, ROM, every bank pointer, the configuration,
`running` and the ACIA's lines stay, TX only grows, and the bytes of the RAM banks that are not selected stay (R117). -/
def Obligations.StepNeverChangesRomOrOtherBanks : Prop :=
  ∀ s t : State, step s = .next t →
    t.cfg = s.cfg ∧ t.brom = s.brom ∧ t.srom = s.srom ∧ t.ram.bank = s.ram.bank ∧ t.running = s.running ∧
    t.acia.dsrAsserted = s.acia.dsrAsserted ∧ t.acia.dcdAsserted = s.acia.dcdAsserted ∧ s.acia.tx <+: t.acia.tx ∧
    ∀ bank o, bank ≠ s.ram.bank → o < s.cfg.ramSize →
      Memory.read t.ram.cells (bank * s.cfg.ramSize + o) = Memory.read s.ram.cells (bank * s.cfg.ramSize + o)

/-- R560: the cycle table agrees with the meanings: an instruction that ends without a fault spends its opcode's count,
the opcode fetch being one of it, plus at most one for each suffix the table gives the opcode. -/
def Obligations.CycleTableAgreesWithTheMeanings : Prop :=
  ∀ (i : Instr) (s t : State), i.wellFormed .w65c02s = true → s.fault = none → exec i s = .next t → t.fault = none →
    ∃ n, i.cycleCost.base ≤ n + 1 ∧ n + 1 ≤ i.cycleCost.base + i.cycleCost.extra ∧ t.cycles = (s.ticks n).cycles

/-- R400 step 7, R401: the cycles in the trace record are those the step spent. -/
def Obligations.TraceReportsTheCyclesSpent : Prop :=
  ∀ s t : State, s.Inv → s.fault = none → step s = .next t → t.fault = none →
    ∃ r, traceOf s = .trace r ∧ (s.cycles + r.cycles) % 2 ^ s.cfg.cycleBits = t.cycles

/-! ## The bus and the clock -/

/-- R95, R84, R85: the default map, address by address; and with a well-formed configuration no region shadows another:
every address of a window decodes to that window. -/
def Obligations.AddressesDecodeToTheirRegion : Prop :=
  (∀ a : Addr, let n := a.toNat
    (n ≤ 0x7FFF → target Cfg.default a = .ram n) ∧
    (0x8000 ≤ n → n ≤ 0x8003 → target Cfg.default a = .acia (n - 0x8000)) ∧
    (0x8004 ≤ n → n ≤ 0x800F → target Cfg.default a = .hole) ∧
    (0x8010 ≤ n → n ≤ 0x801F → target Cfg.default a = .via 0 (n - 0x8010)) ∧
    (0x8020 ≤ n → n ≤ 0x802F → target Cfg.default a = .via 1 (n - 0x8020)) ∧
    (0x8030 ≤ n → n ≤ 0x8FFF → target Cfg.default a = .hole) ∧
    (0x9000 ≤ n → n ≤ 0xBFFF → target Cfg.default a = .fallback) ∧
    (0xC000 ≤ n → n ≤ 0xDFFF → target Cfg.default a = .brom (n - 0xC000)) ∧
    (0xE000 ≤ n → target Cfg.default a = .srom (n - 0xE000))) ∧
  (∀ (c : Cfg) (a : Addr), c.wf = true → let n := a.toNat
    (c.aciaBase ≤ n → n < c.aciaBase + 4 → target c a = .acia (n - c.aciaBase)) ∧
    (∀ i v, c.vias[i]? = some v → v.base ≤ n → n < v.base + 16 → target c a = .via i (n - v.base)) ∧
    (c.sromStart ≤ n → n < c.sromStart + c.sromSize → target c a = .srom (n - c.sromStart)) ∧
    (c.bromStart ≤ n → n < c.bromStart + c.bromSize → target c a = .brom (n - c.bromStart)) ∧
    (c.ramStart ≤ n → n < c.ramStart + c.ramSize → target c a = .ram (n - c.ramStart)))

/-- R88 to R93, R110, R111, R116, R117, R406 to R408: one cycle, then the cycle-free access. Reads of RAM, ROM and the
fallback give the byte there; a write to RAM is read back and touches no other byte; ROM refuses writes and the hole
refuses everything; the fallback ignores writes, or faults in a strict build; a VIA or ACIA address is an access of that
register, of the device as the tick left it, and changes nothing else. -/
def Obligations.BusAccessesFollowTheMap : Prop :=
  ∀ (s : State) (a : Addr) (v : Byte),
    (∀ b, s.memByte a = some b → busRead a s = .ok b s.tick) ∧
    (inRam s.cfg a = true → ∃ r, busWrite a v s = .ok () { s.tick with ram := r } ∧
      (Memory.wf s.ram.cells = true → ({ s.tick with ram := r } : State).memByte a = some v) ∧
      ∀ b, b ≠ a → ({ s.tick with ram := r } : State).memByte b = s.memByte b) ∧
    (∀ o, target s.cfg a = .srom o ∨ target s.cfg a = .brom o → busWrite a v s = .error (.romWrite a v) s.tick) ∧
    (target s.cfg a = .hole → busRead a s = .error (.deviceHole a .read) s.tick ∧
      busWrite a v s = .error (.deviceHole a .write) s.tick) ∧
    (target s.cfg a = .fallback →
      (s.cfg.strictUnmapped = false → busRead a s = .ok 0x00 s.tick ∧ busWrite a v s = .ok () s.tick) ∧
      (s.cfg.strictUnmapped = true → busRead a s = .error (.unmapped a .read) s.tick ∧
        busWrite a v s = .error (.unmapped a .write) s.tick)) ∧
    (∀ i r w, target s.cfg a = .via i r → s.tick.vias[i]? = some w →
      busRead a s = .ok (w.read r).1 { s.tick with vias := s.tick.vias.set i (w.read r).2 } ∧
      busWrite a v s = .ok () { s.tick with vias := s.tick.vias.set i (w.write r v) }) ∧
    (∀ r, target s.cfg a = .acia r →
      busRead a s = .ok (s.acia.read r).1 { s.tick with acia := (s.acia.read r).2 } ∧
      (∀ d, s.acia.write r v = .ok d → busWrite a v s = .ok () { s.tick with acia := d }) ∧
      (∀ f, s.acia.write r v = .error f → busWrite a v s = .error f s.tick)) ∧
    busRead a s = readNoCycle a s.tick ∧ busWrite a v s = writeNoCycle a v s.tick

/-- R94: every cycle-counted access advances the counter by one, even when it faults; the cycle-free ones leave it. -/
def Obligations.CycleAccountingLaw : Prop :=
  ∀ (s : State) (a : Addr) (v : Byte),
    (∀ b t, busRead a s = .ok b t → t.cycles = (s.cycles + 1) % 2 ^ s.cfg.cycleBits) ∧
    (∀ f t, busRead a s = .error f t → t.cycles = (s.cycles + 1) % 2 ^ s.cfg.cycleBits) ∧
    (∀ t, busWrite a v s = .ok () t → t.cycles = (s.cycles + 1) % 2 ^ s.cfg.cycleBits) ∧
    (∀ f t, busWrite a v s = .error f t → t.cycles = (s.cycles + 1) % 2 ^ s.cfg.cycleBits) ∧
    (∀ b t, readNoCycle a s = .ok b t → t.cycles = s.cycles) ∧
    (∀ f t, readNoCycle a s = .error f t → t.cycles = s.cycles) ∧
    (∀ t, writeNoCycle a v s = .ok () t → t.cycles = s.cycles) ∧
    (∀ f t, writeNoCycle a v s = .error f t → t.cycles = s.cycles)

/-- R86, R26, R456: a tick adds one to the counter, modulo 2^CYCLE_BITS, and gives every VIA exactly one clock edge; the
pending latches are set by the VIAs that request, each on its own line, and by nothing else. -/
def Obligations.TickClocksEveryViaOnce : Prop :=
  ∀ s : State, s.vias.length = s.cfg.vias.length →
    let requests (l : IrqLine) : Prop := ∃ (i : Nat) (v : Via) (slot : ViaSlot), s.vias[i]? = some v ∧ s.cfg.vias[i]? = some slot ∧ slot.line = l ∧
      (v.clockEdge s.cfg.viaT2Reloads).2 = true
    s.tick.cycles = (s.cycles + 1) % 2 ^ s.cfg.cycleBits ∧
    s.tick.vias = s.vias.map (fun v => (v.clockEdge s.cfg.viaT2Reloads).1) ∧
    (s.tick.pendingIrq = true ↔ s.pendingIrq = true ∨ requests .irq) ∧
    (s.tick.pendingNmi = true ↔ s.pendingNmi = true ∨ requests .nmi) ∧
    s.tick.still = s.still ∧ s.tick.pc = s.pc ∧ s.tick.acia = s.acia

/-! ## The VIA -/

/-- R481, R483: an armed timer 1 that holds V counts down to 0 in V edges without touching its flag; edge V + 1 sets the
flag and requests the CPU if the enable bit is set; free-running it then holds its latch, one-shot it holds 0xFFFF and is
disarmed; PB7 toggles on that edge when it is enabled. -/
def Obligations.TimerOneFiresAfterVPlusOneEdges : Prop :=
  ∀ (reloads : Bool) (v : Via), v.t1Active = true →
    (∀ n, n ≤ v.t1c.toNat → (edges reloads n v).t1c.toNat = v.t1c.toNat - n ∧
      (edges reloads n v).ifr.getLsbD 6 = v.ifr.getLsbD 6 ∧ (edges reloads n v).iorb = v.iorb) ∧
    (let w := edges reloads v.t1c.toNat v
     let e := w.clockEdge reloads
     e.1.ifr.getLsbD 6 = true ∧ (v.ier.getLsbD 6 = true → e.2 = true) ∧
     (v.t1FreeRunning = true → e.1.t1c = v.t1l ∧ e.1.t1Active = true) ∧
     (v.t1FreeRunning = false → e.1.t1c = 0xFFFF ∧ e.1.t1Active = false) ∧
     e.1.iorb = if v.pb7OutputEnabled then v.iorb ^^^ 0x80 else v.iorb)

/-- R482: timer 2 likewise, when it is armed and does not count pulses; it reloads when `VIA_T2_RELOADS`, else stops.
Counting pulses it is frozen. -/
def Obligations.TimerTwoFiresAfterVPlusOneEdges : Prop :=
  ∀ (reloads : Bool) (v : Via), v.t2Active = true →
    (v.t2CountsPulses = false →
      (∀ n, n ≤ v.t2c.toNat → (edges reloads n v).t2c.toNat = v.t2c.toNat - n ∧
        (edges reloads n v).ifr.getLsbD 5 = v.ifr.getLsbD 5) ∧
      (let w := edges reloads v.t2c.toNat v
       let e := w.clockEdge reloads
       e.1.ifr.getLsbD 5 = true ∧ (v.ier.getLsbD 5 = true → e.2 = true) ∧
       (reloads = true → e.1.t2c = v.t2l ∧ e.1.t2Active = true) ∧
       (reloads = false → e.1.t2c = 0xFFFF ∧ e.1.t2Active = false))) ∧
    (v.t2CountsPulses = true → ∀ n, (edges reloads n v).t2c = v.t2c ∧ (edges reloads n v).t2Active = true)

/-- R36, R456: no register access sets a flag of IFR; it can only clear flags. R485, R456: a control edge on CA1, CA2, CB1
or CB2 sets flag 1, 0, 4 or 3, whether or not it was set, and no other; it requests the CPU on the VIA's line exactly when
that flag is enabled, and changes nothing else. -/
def Obligations.RegisterAccessesNeverSetViaFlags : Prop :=
  (∀ (v : Via) (r : Nat) (x : Byte) (n : Nat),
    ((v.write r x).ifr.getLsbD n = true → v.ifr.getLsbD n = true) ∧
    ((v.read r).2.ifr.getLsbD n = true → v.ifr.getLsbD n = true)) ∧
  ∀ (s : State) (i : Nat) (v : Via) (slot : ViaSlot) (l : ControlLine), s.vias[i]? = some v → s.cfg.vias[i]? = some slot →
    let n : Nat := match l with | .ca1 => 1 | .ca2 => 0 | .cb1 => 4 | .cb2 => 3
    ∃ flags, (∀ m, flags.getLsbD m = (v.ifr.getLsbD m || m == n)) ∧
      hostViaControlEdge s i l = { s with
        vias := s.vias.set i { v with ifr := flags }
        pendingIrq := s.pendingIrq || (v.ier.getLsbD n && decide (slot.line = .irq))
        pendingNmi := s.pendingNmi || (v.ier.getLsbD n && decide (slot.line = .nmi)) }

/-- R464 to R468, R455: a write of the high counter byte puts it over the latch's low byte, loads and arms the timer and
clears its flag; writes of the low counter byte and of the timer 1 latch bytes change that half of the latch; a read of the
low counter byte clears the flag unless latching is enabled; the other reads have no effect. Nothing else changes. -/
def Obligations.ViaTimerRegistersLoadAndAcknowledge : Prop :=
  ∀ (v : Via) (x : Byte),
    let withHigh (latch : BitVec 16) : BitVec 16 := BitVec.ofNat 16 (x.toNat * 256 + latch.toNat % 256)
    let withLow (latch : BitVec 16) : BitVec 16 := BitVec.ofNat 16 (latch.toNat / 256 * 256 + x.toNat)
    (∃ flags, v.write 5 x = { v with t1l := withHigh v.t1l, t1c := withHigh v.t1l, t1Active := true, ifr := flags } ∧
      ∀ n, flags.getLsbD n = (v.ifr.getLsbD n && n != 6)) ∧
    (∃ flags, v.write 9 x = { v with t2l := withHigh v.t2l, t2c := withHigh v.t2l, t2Active := true, ifr := flags } ∧
      ∀ n, flags.getLsbD n = (v.ifr.getLsbD n && n != 5)) ∧
    v.write 4 x = { v with t1l := withLow v.t1l } ∧ v.write 6 x = { v with t1l := withLow v.t1l } ∧
    v.write 7 x = { v with t1l := withHigh v.t1l } ∧ v.write 8 x = { v with t2l := withLow v.t2l } ∧
    (∃ flags, v.read 4 = (BitVec.ofNat 8 (v.t1c.toNat % 256), { v with ifr := flags }) ∧
      ∀ n, flags.getLsbD n = (v.ifr.getLsbD n && (n != 6 || v.latchingEnabled))) ∧
    (∃ flags, v.read 8 = (BitVec.ofNat 8 (v.t2c.toNat % 256), { v with ifr := flags }) ∧
      ∀ n, flags.getLsbD n = (v.ifr.getLsbD n && (n != 5 || v.latchingEnabled))) ∧
    v.read 5 = (BitVec.ofNat 8 (v.t1c.toNat / 256), v) ∧ v.read 6 = (BitVec.ofNat 8 (v.t1l.toNat % 256), v) ∧
    v.read 7 = (BitVec.ofNat 8 (v.t1l.toNat / 256), v) ∧ v.read 9 = (BitVec.ofNat 8 (v.t2c.toNat / 256), v)

/-- R469 to R474: what SR, PCR, ACR, IFR and IER read after a write. SR and PCR are stored bytes. ACR keeps bits 7, 6, 5 and
shows the one latch bit twice; IFR bit 7 is the OR of the enabled flags; a 1 written to IFR clears; IER bit 7 chooses set or
clear, and reads 1. These reads have no effect, and SR, PCR, IFR and IER writes change that register alone. -/
def Obligations.AcrIfrIerReadBack : Prop :=
  ∀ (v : Via) (x : Byte),
    (v.write 10 x = { v with sr := x } ∧ (v.read 10).1 = v.sr ∧ v.write 12 x = { v with pcr := x } ∧
      (v.read 12).1 = v.pcr) ∧
    (∀ r, r ∈ [10, 11, 12, 13, 14] → (v.read r).2 = v) ∧
    v.write 13 x = { v with ifr := (v.write 13 x).ifr } ∧ v.write 14 x = { v with ier := (v.write 14 x).ier } ∧
    ∀ n, n < 7 →
      ((v.write 11 x).read 11).1.toNat = x.toNat / 32 * 32 + (if x.toNat % 4 = 0 then 0 else 3) ∧
      (bit (v.read 13).1 7 = true ↔ ∃ m, m < 7 ∧ v.ifr.getLsbD m = true ∧ v.ier.getLsbD m = true) ∧
      bit (v.read 13).1 n = v.ifr.getLsbD n ∧
      bit ((v.write 13 x).read 13).1 n = (v.ifr.getLsbD n && !bit x n) ∧
      bit ((v.write 14 x).read 14).1 n =
        (if 128 ≤ x.toNat then v.ier.getLsbD n || bit x n else v.ier.getLsbD n && !bit x n) ∧
      bit (v.read 14).1 7 = true

/-- R459 to R463: a port read gives the stored byte where the direction bit is 0 and 0 elsewhere; a port write stores all
eight bits whatever the direction; both acknowledge: CB1 or CA1 is cleared, CB2 or CA2 too unless the PCR field is the pulse
code 101, and no other flag. Offset 15 is port A and acknowledges nothing. The direction registers are stored bytes. Nothing
else changes. -/
def Obligations.PortReadsMaskAndAcknowledge : Prop :=
  ∀ (v : Via) (x : Byte),
    (∃ flags, v.read 0 = ((v.read 0).1, { v with ifr := flags }) ∧ v.write 0 x = { v with iorb := x, ifr := flags } ∧
      ∀ n, bit (v.read 0).1 n = (bit v.iorb n && !bit v.ddrb n && decide (n < 8)) ∧
        flags.getLsbD n = (v.ifr.getLsbD n && n != 4 && (n != 3 || decide (v.pcr.toNat / 32 = 5)))) ∧
    (∃ flags, v.read 1 = ((v.read 1).1, { v with ifr := flags }) ∧ v.write 1 x = { v with iora := x, ifr := flags } ∧
      ∀ n, bit (v.read 1).1 n = (bit v.iora n && !bit v.ddra n && decide (n < 8)) ∧
        flags.getLsbD n = (v.ifr.getLsbD n && n != 1 && (n != 0 || decide (v.pcr.toNat / 2 % 8 = 5)))) ∧
    v.read 15 = ((v.read 1).1, v) ∧ v.write 15 x = { v with iora := x } ∧
    v.read 2 = (v.ddrb, v) ∧ v.write 2 x = { v with ddrb := x } ∧ v.read 3 = (v.ddra, v) ∧ v.write 3 x = { v with ddra := x }

/-! ## The ACIA -/

/-- R510, R507, R506: the status byte bit by bit; reading it changes nothing; reading data clears the three receive flags
and gives RXD; writing data appends to TX; writing status does nothing. -/
def Obligations.AciaStatusAndData : Prop :=
  ∀ (d : Acia) (x : Byte),
    (d.read 1).1.toNat = num d.irqFlag * 128 + (1 - num d.dsrAsserted) * 64 + num d.dcdAsserted * 32 + 16 +
      num d.rxFull * 8 + num d.overrun * 4 ∧ (d.read 1).2 = d ∧
    d.read 0 = (d.rxd, { d with irqFlag := false, rxFull := false, overrun := false }) ∧
    d.write 0 x = .ok { d with tx := d.tx ++ [x] } ∧ d.write 1 x = .ok d ∧ d.read 2 = (d.cmd, d) ∧ d.read 3 = (d.ctl, d)

/-- R508, R509, R516, R511, R505: a command with bit 5 set and a control with baud code 0 are rejected and change nothing
but the clock; every other value is stored, and a control value reprograms the port. -/
def Obligations.AciaRejectsParityAndExternalClock : Prop :=
  ∀ (s : State) (a : Addr) (x : Byte),
    (target s.cfg a = .acia 2 →
      (bit x 5 = true → busWrite a x s = .error (.configError .parityUnsupported x.toNat) s.tick) ∧
      (bit x 5 = false → busWrite a x s = .ok () { s.tick with acia := { s.acia with cmd := x } })) ∧
    (target s.cfg a = .acia 3 →
      (x.toNat % 16 = 0 → busWrite a x s = .error (.configError .unsupportedBaud x.toNat) s.tick) ∧
      (x.toNat % 16 ≠ 0 → ∃ p, busWrite a x s = .ok () { s.tick with acia := { s.acia with ctl := x, port := some p } } ∧
        p.dataBits + x.toNat / 32 % 4 = 8 ∧ p.parity = .none ∧
        p.stopBits = (if x.toNat < 128 then .one else if p.dataBits = 5 then .onePointFive else .two) ∧
        (x.toNat % 16, p.baud) ∈ [(1, 50), (2, 75), (3, 110), (4, 135), (5, 150), (6, 300), (7, 600), (8, 1200), (9, 1800),
          (10, 2400), (11, 3600), (12, 4800), (13, 7200), (14, 9600), (15, 19200)]))

/-- R520, R521: receiving a byte keeps the unread one and sets overrun when one is there, and requests the IRQ exactly
when CMD bit 1 is clear; the lines change no flag and request nothing. -/
def Obligations.AciaReceiveBuffersOneByte : Prop :=
  ∀ (s : State) (b : Byte) (dsr dcd : Bool),
    (let t := hostAciaReceive s b
     (s.acia.rxFull = true → t.acia.rxd = s.acia.rxd ∧ t.acia.overrun = true ∧ t.acia.rxFull = true) ∧
     (s.acia.rxFull = false → t.acia.rxd = b ∧ t.acia.overrun = s.acia.overrun ∧ t.acia.rxFull = true) ∧
     (bit s.acia.cmd 1 = false → t.acia.irqFlag = true ∧ t.pendingIrq = true) ∧
     (bit s.acia.cmd 1 = true → t.acia.irqFlag = s.acia.irqFlag ∧ t.pendingIrq = s.pendingIrq)) ∧
    hostAciaSetLines s dsr dcd = { s with acia := { s.acia with dsrAsserted := dsr, dcdAsserted := dcd } }

/-! ## Reset and host operations -/

/-- R540, R541, R542, R544, R38: reset from any state. The vector is read in bank 0, RAM is clear, the registers have
their values, the counter is 0, every VIA is zero; ROM contents, `running`, TX and the lines stay. -/
def Obligations.ResetRestoresPowerOnValues : Prop :=
  ∀ (s : State) (l h : Byte), s.clearAll.memByte 0xFFFC = some l → s.clearAll.memByte 0xFFFD = some h →
    let t := resetMachine s
    t.pc.toNat = h.toNat * 256 + l.toNat ∧ t.a = 0 ∧ t.x = 0 ∧ t.y = 0 ∧ t.sp = 0xFD ∧
    t.p = ⟨false, false, false, false, true, false, false⟩ ∧ t.cycles = 0 ∧ t.pendingNmi = false ∧ t.pendingIrq = false ∧
    t.mode = .run ∧ t.fault = none ∧ t.running = s.running ∧ t.ram.bank = 0 ∧ t.brom.bank = 0 ∧ t.srom.bank = 0 ∧
    (∀ o, Memory.read t.ram.cells o = 0x00) ∧ t.brom.cells = s.brom.cells ∧ t.srom.cells = s.srom.cells ∧
    (∀ v, v ∈ t.vias → v = Via.reset) ∧ t.vias.length = s.vias.length ∧
    t.acia = { Acia.powerOn with
      dsrAsserted := s.acia.dsrAsserted, dcdAsserted := s.acia.dcdAsserted, tx := s.acia.tx } ∧ t.cfg = s.cfg

/-- R543, R5, R409: a reset whose vector cannot be read latches that fault and keeps PC, everything else being as reset
leaves it; an ill-formed configuration makes no machine, a well-formed one makes the machine that reset makes of
power-on. The value 0 beside `BadMap` is the model's choice (log 13), and so is which windows of size 0 are well-formed
(log 19). -/
def Obligations.ResetWithoutVectorAndConstruction : Prop :=
  (∀ s : State, (target s.cfg 0xFFFC = .hole → resetMachine s = s.clearAll.latch (.deviceHole 0xFFFC .read)) ∧
    (target s.cfg 0xFFFC = .fallback → s.cfg.strictUnmapped = true →
      resetMachine s = s.clearAll.latch (.unmapped 0xFFFC .read))) ∧
  (∀ s : State, s.clearAll.pc = s.pc) ∧
  (∀ c : Cfg, c.wf = false → construct c = .error (.configError .badMap 0)) ∧
  (∀ c : Cfg, c.wf = true → construct c = .ok (resetMachine (State.powerOn c))) ∧
  construct Cfg.default = .ok State.reset

/-- R112, R113, R114, R415: LoadRom stores the leading bytes of its bank and nothing else, and rejects an illegal bank and
bytes longer than a bank; a flat image is cut bank-major, byte `k` at bank-major address `k`, and the rest keeps what it
holds; SelectBank takes exactly the legal numbers, sets the device's own pointer to the number and changes nothing else. The
values beside `BadBank` and `ImageSize` are the model's (log 13), and so is `BadBank` where both errors apply (log 14). -/
def Obligations.LoadRomAndSelectBank : Prop :=
  ∀ (s : State) (d : RomDevice) (bank : Nat) (bytes : List Byte), Memory.wf (s.rom d).cells = true →
    (bank < d.totalBanks s.cfg → bytes.length ≤ d.bankSize s.cfg →
      ∃ cells, hostLoadRom s d bank bytes = .ok (s.setRom d ⟨cells, (s.rom d).bank⟩) ∧
        ∀ b o, o < d.bankSize s.cfg → Memory.read cells (b * d.bankSize s.cfg + o) =
          if b = bank ∧ o < bytes.length then bytes.getD o 0x00
          else Memory.read (s.rom d).cells (b * d.bankSize s.cfg + o)) ∧
    (d.totalBanks s.cfg ≤ bank → hostLoadRom s d bank bytes = .error (.configError .badBank bank)) ∧
    (bank < d.totalBanks s.cfg → d.bankSize s.cfg < bytes.length →
      hostLoadRom s d bank bytes = .error (.configError .imageSize bytes.length)) ∧
    (bytes.length ≤ d.totalBanks s.cfg * d.bankSize s.cfg →
      ∃ cells, hostLoadFlat s d bytes = .ok (s.setRom d ⟨cells, (s.rom d).bank⟩) ∧
        (∀ k, k < bytes.length → Memory.read cells
          (k / d.bankSize s.cfg * d.bankSize s.cfg + k % d.bankSize s.cfg) = bytes.getD k 0x00) ∧
        ∀ k, bytes.length ≤ k → Memory.read cells k = Memory.read (s.rom d).cells k) ∧
    (d.totalBanks s.cfg * d.bankSize s.cfg < bytes.length →
      hostLoadFlat s d bytes = .error (.configError .imageSize bytes.length)) ∧
    (∀ n,
      (n < s.cfg.bromBanks → hostSelectBank s .bankedRom n = .ok { s with brom := { s.brom with bank := n } }) ∧
      (n < 1 → hostSelectBank s .sharedRom n = .ok { s with srom := { s.srom with bank := n } }) ∧
      (n < s.cfg.ramBanks → hostSelectBank s .ram n = .ok { s with ram := { s.ram with bank := n } }) ∧
      (s.cfg.bromBanks ≤ n → hostSelectBank s .bankedRom n = .error (.configError .badBank n)) ∧
      (1 ≤ n → hostSelectBank s .sharedRom n = .error (.configError .badBank n)) ∧
      (s.cfg.ramBanks ≤ n → hostSelectBank s .ram n = .error (.configError .badBank n)))
end

