-- ==== Sys2Proof/Laws/Bits.lean ====
section
/-! SUPPORT. The notation of 00_scope R6 as arithmetic: byte order, zero-page and stack addresses, branch targets and
page crossing. -/

namespace Sys2Proof

theorem lo_toNat (w : Addr) : (lo w).toNat = w.toNat % 256 := by simp [lo, BitVec.extractLsb'_toNat]

theorem hi_toNat (w : Addr) : (hi w).toNat = w.toNat / 256 := by
  simp [hi, BitVec.extractLsb'_toNat, Nat.shiftRight_eq_div_pow]
  omega

theorem join_toNat (h l : Byte) : (join h l).toNat = h.toNat * 256 + l.toNat := by
  simp only [join]
  rw [BitVec.toNat_append, ← Nat.shiftLeft_add_eq_or_of_lt l.isLt, Nat.shiftLeft_eq]

/-- The two bytes of a word make the word. -/
@[simp] theorem join_hi_lo (w : Addr) : join (hi w) (lo w) = w := by
  apply BitVec.eq_of_toNat_eq
  rw [join_toNat, hi_toNat, lo_toNat]
  omega

@[simp] theorem lo_join (h l : Byte) : lo (join h l) = l := by
  apply BitVec.eq_of_toNat_eq
  rw [lo_toNat, join_toNat]
  omega

@[simp] theorem hi_join (h l : Byte) : hi (join h l) = h := by
  apply BitVec.eq_of_toNat_eq
  rw [hi_toNat, join_toNat]
  omega

theorem zeroPage_toNat (z : Byte) : (zeroPage z).toNat = z.toNat := by simp [zeroPage, join_toNat]

theorem stackAddr_toNat (sp : Byte) : (stackAddr sp).toNat = 256 + sp.toNat := by simp [stackAddr, join_toNat]

/-- Different stack pointers address different bytes. -/
theorem stackAddr_inj {x y : Byte} (h : stackAddr x = stackAddr y) : x = y := by
  have := congrArg BitVec.toNat h
  rw [stackAddr_toNat, stackAddr_toNat] at this
  exact BitVec.eq_of_toNat_eq (by omega)

/-- A branch target is PC plus the signed displacement, modulo 65536 (R320). -/
theorem branchTarget_eq (pc : Addr) (d : Byte) : branchTarget pc d = BitVec.ofInt 16 ((pc.toNat : Int) + d.toInt) := by
  simp only [branchTarget]
  apply BitVec.eq_of_toInt_eq
  rw [BitVec.toInt_add, BitVec.toInt_signExtend_of_le (by omega), BitVec.toInt_ofInt, BitVec.toInt_eq_toNat_bmod]
  simp

/-- Crossing a page is a change of the address divided by 256 (R185). -/
theorem crossed_eq (a b : Addr) : crossed a b = !decide (b.toNat / 256 = a.toNat / 256) := by
  simp only [crossed, ← hi_toNat, bne]
  congr 1
  rw [Bool.eq_iff_iff]
  simp [← BitVec.toNat_inj]

end Sys2Proof
end

