-- ==== Sys2Proof/Laws/Memory.lean ====
section
/-! SUPPORT. The laws of storage: a read after a write, and the canonical form that every operation keeps. -/

namespace Sys2Proof.Memory

@[simp] theorem read_nil (a : Nat) : Memory.read [] a = unlisted := rfl

theorem read_cons (k : Nat) (v : Byte) (m : Memory) (a : Nat) :
    Memory.read ((k, v) :: m) a = if a = k then v else Memory.read m a := rfl

/-- An address below everything listed reads as unlisted. -/
theorem read_lt_of_wfFrom {m : Memory} {n a : Nat} (h : Memory.wfFrom n m = true) (ha : a < n) :
    Memory.read m a = unlisted := by
  induction m generalizing n with
  | nil => rfl
  | cons c m ih =>
    obtain ⟨k, v⟩ := c
    simp only [Memory.wfFrom, Bool.and_eq_true, decide_eq_true_eq] at h
    rw [read_cons, if_neg (by omega)]
    exact ih h.2 (by omega)

/-- Reading the address just written. -/
theorem read_write_same {m : Memory} {n : Nat} (h : Memory.wfFrom n m = true) (a : Nat) (x : Byte) :
    Memory.read (Memory.write m a x) a = x := by
  induction m generalizing n with
  | nil => by_cases hx : x = unlisted <;> simp [Memory.write, read_cons, hx]
  | cons c m ih =>
    obtain ⟨k, v⟩ := c
    simp only [Memory.wfFrom, Bool.and_eq_true, decide_eq_true_eq] at h
    rcases Nat.lt_trichotomy a k with hk | rfl | hk
    · by_cases hx : x = unlisted
      · simp only [Memory.write, hk, if_true, hx, read_cons]
        rw [if_neg (by omega)]
        exact read_lt_of_wfFrom h.2 (by omega)
      · simp [Memory.write, hk, hx, read_cons]
    · by_cases hx : x = unlisted
      · simp only [Memory.write, Nat.lt_irrefl, if_false, if_true, hx]
        exact read_lt_of_wfFrom h.2 (by omega)
      · simp [Memory.write, hx, read_cons]
    · rw [Memory.write, if_neg (by omega), if_neg (by omega), read_cons, if_neg (by omega)]
      exact ih h.2

/-- Reading any other address. -/
theorem read_write_other {m : Memory} {a b : Nat} (x : Byte) (hab : b ≠ a) :
    Memory.read (Memory.write m a x) b = Memory.read m b := by
  induction m with
  | nil => by_cases hx : x = unlisted <;> simp [Memory.write, read_cons, hx, hab]
  | cons c m ih =>
    obtain ⟨k, v⟩ := c
    rcases Nat.lt_trichotomy a k with hk | rfl | hk
    · by_cases hx : x = unlisted <;> simp [Memory.write, hk, hx, read_cons, hab]
    · by_cases hx : x = unlisted <;> simp [Memory.write, hx, read_cons, hab]
    · rw [Memory.write, if_neg (by omega), if_neg (by omega), read_cons, read_cons, ih]

theorem wfFrom_mono {m : Memory} {n n' : Nat} (h : Memory.wfFrom n m = true) (hn : n' ≤ n) :
    Memory.wfFrom n' m = true := by
  cases m with
  | nil => rfl
  | cons c m =>
    simp only [Memory.wfFrom, Bool.and_eq_true, decide_eq_true_eq] at h ⊢
    exact ⟨⟨by omega, h.1.2⟩, h.2⟩

theorem write_wfFrom {m : Memory} {n a : Nat} (x : Byte) (h : Memory.wfFrom n m = true) (ha : n ≤ a) :
    Memory.wfFrom n (Memory.write m a x) = true := by
  induction m generalizing n with
  | nil => by_cases hx : x = unlisted <;> simp [Memory.write, Memory.wfFrom, hx, ha]
  | cons c m ih =>
    obtain ⟨k, v⟩ := c
    have h' := h
    simp only [Memory.wfFrom, Bool.and_eq_true, decide_eq_true_eq] at h'
    rcases Nat.lt_trichotomy a k with hk | rfl | hk
    · by_cases hx : x = unlisted
      · simpa [Memory.write, hk, hx] using h
      · simp only [Memory.write, hk, if_true, hx, if_false, Memory.wfFrom, Bool.and_eq_true, decide_eq_true_eq]
        exact ⟨⟨ha, by simpa using hx⟩, ⟨by omega, h'.1.2⟩, h'.2⟩
    · by_cases hx : x = unlisted
      · simp only [Memory.write, Nat.lt_irrefl, if_false, if_true, hx]
        exact wfFrom_mono h'.2 (by omega)
      · simp only [Memory.write, Nat.lt_irrefl, if_false, if_true, hx, Memory.wfFrom, Bool.and_eq_true,
          decide_eq_true_eq]
        exact ⟨⟨ha, by simpa using hx⟩, h'.2⟩
    · rw [Memory.write, if_neg (by omega), if_neg (by omega)]
      simp only [Memory.wfFrom, Bool.and_eq_true, decide_eq_true_eq]
      exact ⟨h'.1, ih h'.2 (by omega)⟩

/-- A write keeps the canonical form. -/
theorem write_wf {m : Memory} (a : Nat) (x : Byte) (h : Memory.wf m = true) : Memory.wf (Memory.write m a x) = true :=
  write_wfFrom x h (Nat.zero_le a)

/-- A write inside the device keeps the listed addresses inside. -/
theorem write_below {m : Memory} {n a : Nat} (x : Byte) (h : Memory.below n m = true) (ha : a < n) :
    Memory.below n (Memory.write m a x) = true := by
  induction m with
  | nil => by_cases hx : x = unlisted <;> simp [Memory.write, Memory.below, hx, ha]
  | cons c m ih =>
    obtain ⟨k, v⟩ := c
    simp only [Memory.below, List.all_cons, Bool.and_eq_true, decide_eq_true_eq] at h
    have hm : Memory.below n m = true := h.2
    rcases Nat.lt_trichotomy a k with hk | rfl | hk
    · by_cases hx : x = unlisted
      · simpa [Memory.write, hk, hx, Memory.below] using h
      · simpa [Memory.write, hk, hx, Memory.below, ha] using h
    · by_cases hx : x = unlisted
      · simpa [Memory.write, hx] using hm
      · simpa [Memory.write, hx, Memory.below] using h
    · rw [Memory.write, if_neg (by omega), if_neg (by omega)]
      simpa [Memory.below, h.1] using ih hm

/-- Storing a list of bytes keeps the canonical form. -/
theorem writeAll_wf {m : Memory} (a : Nat) (bs : List Byte) (h : Memory.wf m = true) :
    Memory.wf (Memory.writeAll m a bs) = true := by
  induction bs generalizing m a with
  | nil => exact h
  | cons b bs ih => exact ih (a + 1) (write_wf a b h)

/-- Storing a list of bytes inside the device keeps the listed addresses inside. -/
theorem writeAll_below {m : Memory} {n : Nat} (a : Nat) (bs : List Byte) (h : Memory.below n m = true)
    (ha : a + bs.length ≤ n) : Memory.below n (Memory.writeAll m a bs) = true := by
  induction bs generalizing m a with
  | nil => exact h
  | cons b bs ih =>
    simp only [List.length_cons] at ha
    exact ih (a + 1) (write_below b h (by omega)) (by omega)

/-- Storing a list of bytes leaves every address outside them alone. -/
theorem read_writeAll_other {m : Memory} (a k : Nat) (bs : List Byte) (hk : k < a ∨ a + bs.length ≤ k) :
    Memory.read (Memory.writeAll m a bs) k = Memory.read m k := by
  induction bs generalizing m a with
  | nil => rfl
  | cons b bs ih =>
    simp only [List.length_cons] at hk
    rw [Memory.writeAll, ih (a + 1) (by omega), read_write_other b (by omega)]

/-- Reading back the bytes just stored. -/
theorem read_writeAll_same {m : Memory} (a : Nat) (bs : List Byte) (h : Memory.wf m = true) (k : Nat)
    (hk : k < bs.length) : Memory.read (Memory.writeAll m a bs) (a + k) = bs.getD k unlisted := by
  induction bs generalizing m a k with
  | nil => exact absurd hk (Nat.not_lt_zero k)
  | cons b bs ih =>
    cases k with
    | zero =>
      show Memory.read (Memory.writeAll (Memory.write m a b) (a + 1) bs) a = b
      rw [read_writeAll_other _ _ _ (by omega), read_write_same h]
    | succ k =>
      have hk' : k < bs.length := by simpa using hk
      rw [Memory.writeAll, show a + (k + 1) = a + 1 + k by omega, ih (a + 1) (write_wf a b h) k hk']
      rfl

theorem wfFrom_ext {m m' : Memory} {n : Nat} (h : Memory.wfFrom n m = true) (h' : Memory.wfFrom n m' = true)
    (e : ∀ a, Memory.read m a = Memory.read m' a) : m = m' := by
  induction m generalizing n m' with
  | nil =>
    cases m' with
    | nil => rfl
    | cons c m' =>
      obtain ⟨k, v⟩ := c
      have hv := e k
      simp only [Memory.wfFrom, Bool.and_eq_true, bne_iff_ne] at h'
      rw [read_nil, read_cons, if_pos rfl] at hv
      exact absurd hv.symm h'.1.2
  | cons c m ih =>
    obtain ⟨k, v⟩ := c
    simp only [Memory.wfFrom, Bool.and_eq_true, bne_iff_ne, decide_eq_true_eq] at h
    cases m' with
    | nil =>
      have hv := e k
      rw [read_nil, read_cons, if_pos rfl] at hv
      exact absurd hv h.1.2
    | cons c' m' =>
      obtain ⟨k', v'⟩ := c'
      simp only [Memory.wfFrom, Bool.and_eq_true, bne_iff_ne, decide_eq_true_eq] at h'
      have hkk : k = k' := by
        rcases Nat.lt_trichotomy k k' with hlt | heq | hgt
        · have hv := e k
          rw [read_cons, if_pos rfl, read_cons, if_neg (by omega), read_lt_of_wfFrom h'.2 (by omega)] at hv
          exact absurd hv h.1.2
        · exact heq
        · have hv := e k'
          rw [read_cons, if_neg (by omega), read_lt_of_wfFrom h.2 (by omega), read_cons, if_pos rfl] at hv
          exact absurd hv.symm h'.1.2
      subst hkk
      have hvv : v = v' := by simpa [read_cons] using e k
      subst hvv
      refine congrArg _ (ih h.2 h'.2 fun a => ?_)
      rcases Nat.lt_or_ge a (k + 1) with ha | ha
      · rw [read_lt_of_wfFrom h.2 ha, read_lt_of_wfFrom h'.2 ha]
      · have hv := e a
        rwa [read_cons, if_neg (by omega), read_cons, if_neg (by omega)] at hv

/-- Equal memories are equal data: two canonical memories that read alike everywhere are the same list. -/
theorem wf_ext {m m' : Memory} (h : Memory.wf m = true) (h' : Memory.wf m' = true)
    (e : ∀ a, Memory.read m a = Memory.read m' a) : m = m' := wfFrom_ext h h' e

end Sys2Proof.Memory
end

