-- ==== Sys2Proof/Laws/Exec.lean ====
section
/-! SUPPORT. How pieces of pseudocode run: one equation per sequencing step, and what holds of every state a piece
can end in (`Always`), whether it ends with a value or with a fault. -/

namespace Sys2Proof.Machine

variable {α β : Type}

@[simp] theorem bind_apply (x : Exec α) (f : α → Exec β) (s : State) :
    (x >>= f) s = match x s with
      | .ok a t => f a t
      | .error e t => .error e t := by
  show EStateM.bind x f s = _
  unfold EStateM.bind
  cases x s <;> rfl

@[simp] theorem map_apply (f : α → β) (x : Exec α) (s : State) :
    (f <$> x) s = match x s with
      | .ok a t => .ok (f a) t
      | .error e t => .error e t := by
  show EStateM.map f x s = _
  unfold EStateM.map
  cases x s <;> rfl

@[simp] theorem pure_apply (a : α) (s : State) : (pure a : Exec α) s = .ok a s := rfl
@[simp] theorem look_apply (f : State → α) (s : State) : look f s = .ok (f s) s := rfl
@[simp] theorem update_apply (f : State → State) (s : State) : update f s = .ok () (f s) := rfl
@[simp] theorem raise_apply (f : Fault) (s : State) : (raise f : Exec α) s = .error f s := rfl
@[simp] theorem internal_apply (s : State) : internal s = .ok () s.tick := rfl
@[simp] theorem finish_ok (u : Unit) (s : State) : finish (.ok u s) = .next s := rfl
@[simp] theorem finish_error (f : Fault) (s : State) : finish (.error f s) = .next (s.latch f) := rfl

theorem run_apply (x : Exec Unit) (s : State) : run x s = finish (x s) := rfl

/-- The state a piece of pseudocode ends in, before a fault is latched. -/
def endState : EStateM.Result Fault State α → State
  | .ok _ s => s
  | .error _ s => s

@[simp] theorem endState_ok (a : α) (s : State) : endState (.ok a s : EStateM.Result Fault State α) = s := rfl
@[simp] theorem endState_error (f : Fault) (s : State) :
    endState (.error f s : EStateM.Result Fault State α) = s := rfl

/-- From every state, `x` ends in a state related to it. -/
def Always (R : State → State → Prop) (x : Exec α) : Prop := ∀ s, R s (endState (x s))

/-- What a relation between the state before and the state after needs for sequencing. -/
structure Sequencing (R : State → State → Prop) : Prop where
  refl : ∀ s, R s s
  trans : ∀ s t u, R s t → R t u → R s u

theorem Always.ok {R : State → State → Prop} {x : Exec α} (h : Always R x) {s t : State} {a : α}
    (e : x s = .ok a t) : R s t := by simpa [e] using h s

theorem Always.error {R : State → State → Prop} {x : Exec α} (h : Always R x) {s t : State} {f : Fault}
    (e : x s = .error f t) : R s t := by simpa [e] using h s

/-- A step that ends an instruction's pseudocode ends in a related state, or in one with the fault latched on it. -/
theorem Always.run {R : State → State → Prop} {x : Exec Unit} (h : Always R x) {s t : State}
    (e : Machine.run x s = .next t) : R s t ∨ ∃ f u, R s u ∧ t = u.latch f := by
  rw [run_apply] at e
  cases hx : x s with
  | ok a u =>
    rw [hx, finish_ok] at e
    cases e
    exact .inl (h.ok hx)
  | error f u =>
    rw [hx, finish_error] at e
    cases e
    exact .inr ⟨f, u, h.error hx, rfl⟩

/-- Running pseudocode always answers a next state. -/
theorem run_next (x : Exec Unit) (s : State) : ∃ t, run x s = .next t := by
  rw [run_apply]
  cases x s with
  | ok a t => exact ⟨t, rfl⟩
  | error f t => exact ⟨t.latch f, rfl⟩

namespace Sequencing

variable {R : State → State → Prop} (hR : Sequencing R)
include hR

theorem pure (a : α) : Always R (Pure.pure a : Exec α) := hR.refl
theorem raise (f : Fault) : Always R (Machine.raise f : Exec α) := hR.refl
theorem look (f : State → α) : Always R (Machine.look f) := hR.refl

omit hR in
theorem update {f : State → State} (h : ∀ s, R s (f s)) : Always R (Machine.update f) := h

theorem bind {x : Exec α} {f : α → Exec β} (hx : Always R x) (hf : ∀ a, Always R (f a)) : Always R (x >>= f) := by
  intro s
  rw [bind_apply]
  cases e : x s with
  | ok a t => exact hR.trans _ _ _ (hx.ok e) (hf a t)
  | error f t => exact hx.error e

omit hR in
/-- After looking at the state, the rest may use what was seen. -/
theorem lookBind {f : State → α} {g : α → Exec β} (h : ∀ s, R s (endState (g (f s) s))) :
    Always R (Machine.look f >>= g) := by
  intro s
  simpa using h s

omit hR in
theorem ite {c : Prop} [Decidable c] {x y : Exec α} (hx : Always R x) (hy : Always R y) :
    Always R (if c then x else y) := by
  split <;> assumption

end Sequencing

end Sys2Proof.Machine
end

