-- ==== Sys2Proof/Laws/State.lean ====
section
/-! SUPPORT. One lemma per field per update of State, true by unfolding, so that no later proof unfolds an update. -/

namespace Sys2Proof.Machine.State

variable (s : State)

@[simp] theorem setA_cfg (v : Byte) : (s.setA v).cfg = s.cfg := rfl
@[simp] theorem setA_a (v : Byte) : (s.setA v).a = v := rfl
@[simp] theorem setA_x (v : Byte) : (s.setA v).x = s.x := rfl
@[simp] theorem setA_y (v : Byte) : (s.setA v).y = s.y := rfl
@[simp] theorem setA_sp (v : Byte) : (s.setA v).sp = s.sp := rfl
@[simp] theorem setA_pc (v : Byte) : (s.setA v).pc = s.pc := rfl
@[simp] theorem setA_p (v : Byte) : (s.setA v).p = s.p := rfl
@[simp] theorem setA_cycles (v : Byte) : (s.setA v).cycles = s.cycles := rfl
@[simp] theorem setA_running (v : Byte) : (s.setA v).running = s.running := rfl
@[simp] theorem setA_pendingNmi (v : Byte) : (s.setA v).pendingNmi = s.pendingNmi := rfl
@[simp] theorem setA_pendingIrq (v : Byte) : (s.setA v).pendingIrq = s.pendingIrq := rfl
@[simp] theorem setA_mode (v : Byte) : (s.setA v).mode = s.mode := rfl
@[simp] theorem setA_fault (v : Byte) : (s.setA v).fault = s.fault := rfl
@[simp] theorem setA_ram (v : Byte) : (s.setA v).ram = s.ram := rfl
@[simp] theorem setA_brom (v : Byte) : (s.setA v).brom = s.brom := rfl
@[simp] theorem setA_srom (v : Byte) : (s.setA v).srom = s.srom := rfl
@[simp] theorem setA_vias (v : Byte) : (s.setA v).vias = s.vias := rfl
@[simp] theorem setA_acia (v : Byte) : (s.setA v).acia = s.acia := rfl
@[simp] theorem setA_draws (v : Byte) : (s.setA v).draws = s.draws := rfl

@[simp] theorem setX_cfg (v : Byte) : (s.setX v).cfg = s.cfg := rfl
@[simp] theorem setX_a (v : Byte) : (s.setX v).a = s.a := rfl
@[simp] theorem setX_x (v : Byte) : (s.setX v).x = v := rfl
@[simp] theorem setX_y (v : Byte) : (s.setX v).y = s.y := rfl
@[simp] theorem setX_sp (v : Byte) : (s.setX v).sp = s.sp := rfl
@[simp] theorem setX_pc (v : Byte) : (s.setX v).pc = s.pc := rfl
@[simp] theorem setX_p (v : Byte) : (s.setX v).p = s.p := rfl
@[simp] theorem setX_cycles (v : Byte) : (s.setX v).cycles = s.cycles := rfl
@[simp] theorem setX_running (v : Byte) : (s.setX v).running = s.running := rfl
@[simp] theorem setX_pendingNmi (v : Byte) : (s.setX v).pendingNmi = s.pendingNmi := rfl
@[simp] theorem setX_pendingIrq (v : Byte) : (s.setX v).pendingIrq = s.pendingIrq := rfl
@[simp] theorem setX_mode (v : Byte) : (s.setX v).mode = s.mode := rfl
@[simp] theorem setX_fault (v : Byte) : (s.setX v).fault = s.fault := rfl
@[simp] theorem setX_ram (v : Byte) : (s.setX v).ram = s.ram := rfl
@[simp] theorem setX_brom (v : Byte) : (s.setX v).brom = s.brom := rfl
@[simp] theorem setX_srom (v : Byte) : (s.setX v).srom = s.srom := rfl
@[simp] theorem setX_vias (v : Byte) : (s.setX v).vias = s.vias := rfl
@[simp] theorem setX_acia (v : Byte) : (s.setX v).acia = s.acia := rfl
@[simp] theorem setX_draws (v : Byte) : (s.setX v).draws = s.draws := rfl

@[simp] theorem setY_cfg (v : Byte) : (s.setY v).cfg = s.cfg := rfl
@[simp] theorem setY_a (v : Byte) : (s.setY v).a = s.a := rfl
@[simp] theorem setY_x (v : Byte) : (s.setY v).x = s.x := rfl
@[simp] theorem setY_y (v : Byte) : (s.setY v).y = v := rfl
@[simp] theorem setY_sp (v : Byte) : (s.setY v).sp = s.sp := rfl
@[simp] theorem setY_pc (v : Byte) : (s.setY v).pc = s.pc := rfl
@[simp] theorem setY_p (v : Byte) : (s.setY v).p = s.p := rfl
@[simp] theorem setY_cycles (v : Byte) : (s.setY v).cycles = s.cycles := rfl
@[simp] theorem setY_running (v : Byte) : (s.setY v).running = s.running := rfl
@[simp] theorem setY_pendingNmi (v : Byte) : (s.setY v).pendingNmi = s.pendingNmi := rfl
@[simp] theorem setY_pendingIrq (v : Byte) : (s.setY v).pendingIrq = s.pendingIrq := rfl
@[simp] theorem setY_mode (v : Byte) : (s.setY v).mode = s.mode := rfl
@[simp] theorem setY_fault (v : Byte) : (s.setY v).fault = s.fault := rfl
@[simp] theorem setY_ram (v : Byte) : (s.setY v).ram = s.ram := rfl
@[simp] theorem setY_brom (v : Byte) : (s.setY v).brom = s.brom := rfl
@[simp] theorem setY_srom (v : Byte) : (s.setY v).srom = s.srom := rfl
@[simp] theorem setY_vias (v : Byte) : (s.setY v).vias = s.vias := rfl
@[simp] theorem setY_acia (v : Byte) : (s.setY v).acia = s.acia := rfl
@[simp] theorem setY_draws (v : Byte) : (s.setY v).draws = s.draws := rfl

@[simp] theorem setSp_cfg (v : Byte) : (s.setSp v).cfg = s.cfg := rfl
@[simp] theorem setSp_a (v : Byte) : (s.setSp v).a = s.a := rfl
@[simp] theorem setSp_x (v : Byte) : (s.setSp v).x = s.x := rfl
@[simp] theorem setSp_y (v : Byte) : (s.setSp v).y = s.y := rfl
@[simp] theorem setSp_sp (v : Byte) : (s.setSp v).sp = v := rfl
@[simp] theorem setSp_pc (v : Byte) : (s.setSp v).pc = s.pc := rfl
@[simp] theorem setSp_p (v : Byte) : (s.setSp v).p = s.p := rfl
@[simp] theorem setSp_cycles (v : Byte) : (s.setSp v).cycles = s.cycles := rfl
@[simp] theorem setSp_running (v : Byte) : (s.setSp v).running = s.running := rfl
@[simp] theorem setSp_pendingNmi (v : Byte) : (s.setSp v).pendingNmi = s.pendingNmi := rfl
@[simp] theorem setSp_pendingIrq (v : Byte) : (s.setSp v).pendingIrq = s.pendingIrq := rfl
@[simp] theorem setSp_mode (v : Byte) : (s.setSp v).mode = s.mode := rfl
@[simp] theorem setSp_fault (v : Byte) : (s.setSp v).fault = s.fault := rfl
@[simp] theorem setSp_ram (v : Byte) : (s.setSp v).ram = s.ram := rfl
@[simp] theorem setSp_brom (v : Byte) : (s.setSp v).brom = s.brom := rfl
@[simp] theorem setSp_srom (v : Byte) : (s.setSp v).srom = s.srom := rfl
@[simp] theorem setSp_vias (v : Byte) : (s.setSp v).vias = s.vias := rfl
@[simp] theorem setSp_acia (v : Byte) : (s.setSp v).acia = s.acia := rfl
@[simp] theorem setSp_draws (v : Byte) : (s.setSp v).draws = s.draws := rfl

@[simp] theorem setPc_cfg (v : Addr) : (s.setPc v).cfg = s.cfg := rfl
@[simp] theorem setPc_a (v : Addr) : (s.setPc v).a = s.a := rfl
@[simp] theorem setPc_x (v : Addr) : (s.setPc v).x = s.x := rfl
@[simp] theorem setPc_y (v : Addr) : (s.setPc v).y = s.y := rfl
@[simp] theorem setPc_sp (v : Addr) : (s.setPc v).sp = s.sp := rfl
@[simp] theorem setPc_pc (v : Addr) : (s.setPc v).pc = v := rfl
@[simp] theorem setPc_p (v : Addr) : (s.setPc v).p = s.p := rfl
@[simp] theorem setPc_cycles (v : Addr) : (s.setPc v).cycles = s.cycles := rfl
@[simp] theorem setPc_running (v : Addr) : (s.setPc v).running = s.running := rfl
@[simp] theorem setPc_pendingNmi (v : Addr) : (s.setPc v).pendingNmi = s.pendingNmi := rfl
@[simp] theorem setPc_pendingIrq (v : Addr) : (s.setPc v).pendingIrq = s.pendingIrq := rfl
@[simp] theorem setPc_mode (v : Addr) : (s.setPc v).mode = s.mode := rfl
@[simp] theorem setPc_fault (v : Addr) : (s.setPc v).fault = s.fault := rfl
@[simp] theorem setPc_ram (v : Addr) : (s.setPc v).ram = s.ram := rfl
@[simp] theorem setPc_brom (v : Addr) : (s.setPc v).brom = s.brom := rfl
@[simp] theorem setPc_srom (v : Addr) : (s.setPc v).srom = s.srom := rfl
@[simp] theorem setPc_vias (v : Addr) : (s.setPc v).vias = s.vias := rfl
@[simp] theorem setPc_acia (v : Addr) : (s.setPc v).acia = s.acia := rfl
@[simp] theorem setPc_draws (v : Addr) : (s.setPc v).draws = s.draws := rfl

@[simp] theorem setP_cfg (v : Flags) : (s.setP v).cfg = s.cfg := rfl
@[simp] theorem setP_a (v : Flags) : (s.setP v).a = s.a := rfl
@[simp] theorem setP_x (v : Flags) : (s.setP v).x = s.x := rfl
@[simp] theorem setP_y (v : Flags) : (s.setP v).y = s.y := rfl
@[simp] theorem setP_sp (v : Flags) : (s.setP v).sp = s.sp := rfl
@[simp] theorem setP_pc (v : Flags) : (s.setP v).pc = s.pc := rfl
@[simp] theorem setP_p (v : Flags) : (s.setP v).p = v := rfl
@[simp] theorem setP_cycles (v : Flags) : (s.setP v).cycles = s.cycles := rfl
@[simp] theorem setP_running (v : Flags) : (s.setP v).running = s.running := rfl
@[simp] theorem setP_pendingNmi (v : Flags) : (s.setP v).pendingNmi = s.pendingNmi := rfl
@[simp] theorem setP_pendingIrq (v : Flags) : (s.setP v).pendingIrq = s.pendingIrq := rfl
@[simp] theorem setP_mode (v : Flags) : (s.setP v).mode = s.mode := rfl
@[simp] theorem setP_fault (v : Flags) : (s.setP v).fault = s.fault := rfl
@[simp] theorem setP_ram (v : Flags) : (s.setP v).ram = s.ram := rfl
@[simp] theorem setP_brom (v : Flags) : (s.setP v).brom = s.brom := rfl
@[simp] theorem setP_srom (v : Flags) : (s.setP v).srom = s.srom := rfl
@[simp] theorem setP_vias (v : Flags) : (s.setP v).vias = s.vias := rfl
@[simp] theorem setP_acia (v : Flags) : (s.setP v).acia = s.acia := rfl
@[simp] theorem setP_draws (v : Flags) : (s.setP v).draws = s.draws := rfl

@[simp] theorem setMode_cfg (v : Mode) : (s.setMode v).cfg = s.cfg := rfl
@[simp] theorem setMode_a (v : Mode) : (s.setMode v).a = s.a := rfl
@[simp] theorem setMode_x (v : Mode) : (s.setMode v).x = s.x := rfl
@[simp] theorem setMode_y (v : Mode) : (s.setMode v).y = s.y := rfl
@[simp] theorem setMode_sp (v : Mode) : (s.setMode v).sp = s.sp := rfl
@[simp] theorem setMode_pc (v : Mode) : (s.setMode v).pc = s.pc := rfl
@[simp] theorem setMode_p (v : Mode) : (s.setMode v).p = s.p := rfl
@[simp] theorem setMode_cycles (v : Mode) : (s.setMode v).cycles = s.cycles := rfl
@[simp] theorem setMode_running (v : Mode) : (s.setMode v).running = s.running := rfl
@[simp] theorem setMode_pendingNmi (v : Mode) : (s.setMode v).pendingNmi = s.pendingNmi := rfl
@[simp] theorem setMode_pendingIrq (v : Mode) : (s.setMode v).pendingIrq = s.pendingIrq := rfl
@[simp] theorem setMode_mode (v : Mode) : (s.setMode v).mode = v := rfl
@[simp] theorem setMode_fault (v : Mode) : (s.setMode v).fault = s.fault := rfl
@[simp] theorem setMode_ram (v : Mode) : (s.setMode v).ram = s.ram := rfl
@[simp] theorem setMode_brom (v : Mode) : (s.setMode v).brom = s.brom := rfl
@[simp] theorem setMode_srom (v : Mode) : (s.setMode v).srom = s.srom := rfl
@[simp] theorem setMode_vias (v : Mode) : (s.setMode v).vias = s.vias := rfl
@[simp] theorem setMode_acia (v : Mode) : (s.setMode v).acia = s.acia := rfl
@[simp] theorem setMode_draws (v : Mode) : (s.setMode v).draws = s.draws := rfl

@[simp] theorem setCycles_cfg (v : Nat) : (s.setCycles v).cfg = s.cfg := rfl
@[simp] theorem setCycles_a (v : Nat) : (s.setCycles v).a = s.a := rfl
@[simp] theorem setCycles_x (v : Nat) : (s.setCycles v).x = s.x := rfl
@[simp] theorem setCycles_y (v : Nat) : (s.setCycles v).y = s.y := rfl
@[simp] theorem setCycles_sp (v : Nat) : (s.setCycles v).sp = s.sp := rfl
@[simp] theorem setCycles_pc (v : Nat) : (s.setCycles v).pc = s.pc := rfl
@[simp] theorem setCycles_p (v : Nat) : (s.setCycles v).p = s.p := rfl
@[simp] theorem setCycles_cycles (v : Nat) : (s.setCycles v).cycles = v := rfl
@[simp] theorem setCycles_running (v : Nat) : (s.setCycles v).running = s.running := rfl
@[simp] theorem setCycles_pendingNmi (v : Nat) : (s.setCycles v).pendingNmi = s.pendingNmi := rfl
@[simp] theorem setCycles_pendingIrq (v : Nat) : (s.setCycles v).pendingIrq = s.pendingIrq := rfl
@[simp] theorem setCycles_mode (v : Nat) : (s.setCycles v).mode = s.mode := rfl
@[simp] theorem setCycles_fault (v : Nat) : (s.setCycles v).fault = s.fault := rfl
@[simp] theorem setCycles_ram (v : Nat) : (s.setCycles v).ram = s.ram := rfl
@[simp] theorem setCycles_brom (v : Nat) : (s.setCycles v).brom = s.brom := rfl
@[simp] theorem setCycles_srom (v : Nat) : (s.setCycles v).srom = s.srom := rfl
@[simp] theorem setCycles_vias (v : Nat) : (s.setCycles v).vias = s.vias := rfl
@[simp] theorem setCycles_acia (v : Nat) : (s.setCycles v).acia = s.acia := rfl
@[simp] theorem setCycles_draws (v : Nat) : (s.setCycles v).draws = s.draws := rfl

@[simp] theorem setRunning_cfg (v : Bool) : (s.setRunning v).cfg = s.cfg := rfl
@[simp] theorem setRunning_a (v : Bool) : (s.setRunning v).a = s.a := rfl
@[simp] theorem setRunning_x (v : Bool) : (s.setRunning v).x = s.x := rfl
@[simp] theorem setRunning_y (v : Bool) : (s.setRunning v).y = s.y := rfl
@[simp] theorem setRunning_sp (v : Bool) : (s.setRunning v).sp = s.sp := rfl
@[simp] theorem setRunning_pc (v : Bool) : (s.setRunning v).pc = s.pc := rfl
@[simp] theorem setRunning_p (v : Bool) : (s.setRunning v).p = s.p := rfl
@[simp] theorem setRunning_cycles (v : Bool) : (s.setRunning v).cycles = s.cycles := rfl
@[simp] theorem setRunning_running (v : Bool) : (s.setRunning v).running = v := rfl
@[simp] theorem setRunning_pendingNmi (v : Bool) : (s.setRunning v).pendingNmi = s.pendingNmi := rfl
@[simp] theorem setRunning_pendingIrq (v : Bool) : (s.setRunning v).pendingIrq = s.pendingIrq := rfl
@[simp] theorem setRunning_mode (v : Bool) : (s.setRunning v).mode = s.mode := rfl
@[simp] theorem setRunning_fault (v : Bool) : (s.setRunning v).fault = s.fault := rfl
@[simp] theorem setRunning_ram (v : Bool) : (s.setRunning v).ram = s.ram := rfl
@[simp] theorem setRunning_brom (v : Bool) : (s.setRunning v).brom = s.brom := rfl
@[simp] theorem setRunning_srom (v : Bool) : (s.setRunning v).srom = s.srom := rfl
@[simp] theorem setRunning_vias (v : Bool) : (s.setRunning v).vias = s.vias := rfl
@[simp] theorem setRunning_acia (v : Bool) : (s.setRunning v).acia = s.acia := rfl
@[simp] theorem setRunning_draws (v : Bool) : (s.setRunning v).draws = s.draws := rfl

@[simp] theorem setPendingNmi_cfg (v : Bool) : (s.setPendingNmi v).cfg = s.cfg := rfl
@[simp] theorem setPendingNmi_a (v : Bool) : (s.setPendingNmi v).a = s.a := rfl
@[simp] theorem setPendingNmi_x (v : Bool) : (s.setPendingNmi v).x = s.x := rfl
@[simp] theorem setPendingNmi_y (v : Bool) : (s.setPendingNmi v).y = s.y := rfl
@[simp] theorem setPendingNmi_sp (v : Bool) : (s.setPendingNmi v).sp = s.sp := rfl
@[simp] theorem setPendingNmi_pc (v : Bool) : (s.setPendingNmi v).pc = s.pc := rfl
@[simp] theorem setPendingNmi_p (v : Bool) : (s.setPendingNmi v).p = s.p := rfl
@[simp] theorem setPendingNmi_cycles (v : Bool) : (s.setPendingNmi v).cycles = s.cycles := rfl
@[simp] theorem setPendingNmi_running (v : Bool) : (s.setPendingNmi v).running = s.running := rfl
@[simp] theorem setPendingNmi_pendingNmi (v : Bool) : (s.setPendingNmi v).pendingNmi = v := rfl
@[simp] theorem setPendingNmi_pendingIrq (v : Bool) : (s.setPendingNmi v).pendingIrq = s.pendingIrq := rfl
@[simp] theorem setPendingNmi_mode (v : Bool) : (s.setPendingNmi v).mode = s.mode := rfl
@[simp] theorem setPendingNmi_fault (v : Bool) : (s.setPendingNmi v).fault = s.fault := rfl
@[simp] theorem setPendingNmi_ram (v : Bool) : (s.setPendingNmi v).ram = s.ram := rfl
@[simp] theorem setPendingNmi_brom (v : Bool) : (s.setPendingNmi v).brom = s.brom := rfl
@[simp] theorem setPendingNmi_srom (v : Bool) : (s.setPendingNmi v).srom = s.srom := rfl
@[simp] theorem setPendingNmi_vias (v : Bool) : (s.setPendingNmi v).vias = s.vias := rfl
@[simp] theorem setPendingNmi_acia (v : Bool) : (s.setPendingNmi v).acia = s.acia := rfl
@[simp] theorem setPendingNmi_draws (v : Bool) : (s.setPendingNmi v).draws = s.draws := rfl

@[simp] theorem setPendingIrq_cfg (v : Bool) : (s.setPendingIrq v).cfg = s.cfg := rfl
@[simp] theorem setPendingIrq_a (v : Bool) : (s.setPendingIrq v).a = s.a := rfl
@[simp] theorem setPendingIrq_x (v : Bool) : (s.setPendingIrq v).x = s.x := rfl
@[simp] theorem setPendingIrq_y (v : Bool) : (s.setPendingIrq v).y = s.y := rfl
@[simp] theorem setPendingIrq_sp (v : Bool) : (s.setPendingIrq v).sp = s.sp := rfl
@[simp] theorem setPendingIrq_pc (v : Bool) : (s.setPendingIrq v).pc = s.pc := rfl
@[simp] theorem setPendingIrq_p (v : Bool) : (s.setPendingIrq v).p = s.p := rfl
@[simp] theorem setPendingIrq_cycles (v : Bool) : (s.setPendingIrq v).cycles = s.cycles := rfl
@[simp] theorem setPendingIrq_running (v : Bool) : (s.setPendingIrq v).running = s.running := rfl
@[simp] theorem setPendingIrq_pendingNmi (v : Bool) : (s.setPendingIrq v).pendingNmi = s.pendingNmi := rfl
@[simp] theorem setPendingIrq_pendingIrq (v : Bool) : (s.setPendingIrq v).pendingIrq = v := rfl
@[simp] theorem setPendingIrq_mode (v : Bool) : (s.setPendingIrq v).mode = s.mode := rfl
@[simp] theorem setPendingIrq_fault (v : Bool) : (s.setPendingIrq v).fault = s.fault := rfl
@[simp] theorem setPendingIrq_ram (v : Bool) : (s.setPendingIrq v).ram = s.ram := rfl
@[simp] theorem setPendingIrq_brom (v : Bool) : (s.setPendingIrq v).brom = s.brom := rfl
@[simp] theorem setPendingIrq_srom (v : Bool) : (s.setPendingIrq v).srom = s.srom := rfl
@[simp] theorem setPendingIrq_vias (v : Bool) : (s.setPendingIrq v).vias = s.vias := rfl
@[simp] theorem setPendingIrq_acia (v : Bool) : (s.setPendingIrq v).acia = s.acia := rfl
@[simp] theorem setPendingIrq_draws (v : Bool) : (s.setPendingIrq v).draws = s.draws := rfl

@[simp] theorem setRam_cfg (v : Bank) : (s.setRam v).cfg = s.cfg := rfl
@[simp] theorem setRam_a (v : Bank) : (s.setRam v).a = s.a := rfl
@[simp] theorem setRam_x (v : Bank) : (s.setRam v).x = s.x := rfl
@[simp] theorem setRam_y (v : Bank) : (s.setRam v).y = s.y := rfl
@[simp] theorem setRam_sp (v : Bank) : (s.setRam v).sp = s.sp := rfl
@[simp] theorem setRam_pc (v : Bank) : (s.setRam v).pc = s.pc := rfl
@[simp] theorem setRam_p (v : Bank) : (s.setRam v).p = s.p := rfl
@[simp] theorem setRam_cycles (v : Bank) : (s.setRam v).cycles = s.cycles := rfl
@[simp] theorem setRam_running (v : Bank) : (s.setRam v).running = s.running := rfl
@[simp] theorem setRam_pendingNmi (v : Bank) : (s.setRam v).pendingNmi = s.pendingNmi := rfl
@[simp] theorem setRam_pendingIrq (v : Bank) : (s.setRam v).pendingIrq = s.pendingIrq := rfl
@[simp] theorem setRam_mode (v : Bank) : (s.setRam v).mode = s.mode := rfl
@[simp] theorem setRam_fault (v : Bank) : (s.setRam v).fault = s.fault := rfl
@[simp] theorem setRam_ram (v : Bank) : (s.setRam v).ram = v := rfl
@[simp] theorem setRam_brom (v : Bank) : (s.setRam v).brom = s.brom := rfl
@[simp] theorem setRam_srom (v : Bank) : (s.setRam v).srom = s.srom := rfl
@[simp] theorem setRam_vias (v : Bank) : (s.setRam v).vias = s.vias := rfl
@[simp] theorem setRam_acia (v : Bank) : (s.setRam v).acia = s.acia := rfl
@[simp] theorem setRam_draws (v : Bank) : (s.setRam v).draws = s.draws := rfl

@[simp] theorem setBrom_cfg (v : Bank) : (s.setBrom v).cfg = s.cfg := rfl
@[simp] theorem setBrom_a (v : Bank) : (s.setBrom v).a = s.a := rfl
@[simp] theorem setBrom_x (v : Bank) : (s.setBrom v).x = s.x := rfl
@[simp] theorem setBrom_y (v : Bank) : (s.setBrom v).y = s.y := rfl
@[simp] theorem setBrom_sp (v : Bank) : (s.setBrom v).sp = s.sp := rfl
@[simp] theorem setBrom_pc (v : Bank) : (s.setBrom v).pc = s.pc := rfl
@[simp] theorem setBrom_p (v : Bank) : (s.setBrom v).p = s.p := rfl
@[simp] theorem setBrom_cycles (v : Bank) : (s.setBrom v).cycles = s.cycles := rfl
@[simp] theorem setBrom_running (v : Bank) : (s.setBrom v).running = s.running := rfl
@[simp] theorem setBrom_pendingNmi (v : Bank) : (s.setBrom v).pendingNmi = s.pendingNmi := rfl
@[simp] theorem setBrom_pendingIrq (v : Bank) : (s.setBrom v).pendingIrq = s.pendingIrq := rfl
@[simp] theorem setBrom_mode (v : Bank) : (s.setBrom v).mode = s.mode := rfl
@[simp] theorem setBrom_fault (v : Bank) : (s.setBrom v).fault = s.fault := rfl
@[simp] theorem setBrom_ram (v : Bank) : (s.setBrom v).ram = s.ram := rfl
@[simp] theorem setBrom_brom (v : Bank) : (s.setBrom v).brom = v := rfl
@[simp] theorem setBrom_srom (v : Bank) : (s.setBrom v).srom = s.srom := rfl
@[simp] theorem setBrom_vias (v : Bank) : (s.setBrom v).vias = s.vias := rfl
@[simp] theorem setBrom_acia (v : Bank) : (s.setBrom v).acia = s.acia := rfl
@[simp] theorem setBrom_draws (v : Bank) : (s.setBrom v).draws = s.draws := rfl

@[simp] theorem setSrom_cfg (v : Bank) : (s.setSrom v).cfg = s.cfg := rfl
@[simp] theorem setSrom_a (v : Bank) : (s.setSrom v).a = s.a := rfl
@[simp] theorem setSrom_x (v : Bank) : (s.setSrom v).x = s.x := rfl
@[simp] theorem setSrom_y (v : Bank) : (s.setSrom v).y = s.y := rfl
@[simp] theorem setSrom_sp (v : Bank) : (s.setSrom v).sp = s.sp := rfl
@[simp] theorem setSrom_pc (v : Bank) : (s.setSrom v).pc = s.pc := rfl
@[simp] theorem setSrom_p (v : Bank) : (s.setSrom v).p = s.p := rfl
@[simp] theorem setSrom_cycles (v : Bank) : (s.setSrom v).cycles = s.cycles := rfl
@[simp] theorem setSrom_running (v : Bank) : (s.setSrom v).running = s.running := rfl
@[simp] theorem setSrom_pendingNmi (v : Bank) : (s.setSrom v).pendingNmi = s.pendingNmi := rfl
@[simp] theorem setSrom_pendingIrq (v : Bank) : (s.setSrom v).pendingIrq = s.pendingIrq := rfl
@[simp] theorem setSrom_mode (v : Bank) : (s.setSrom v).mode = s.mode := rfl
@[simp] theorem setSrom_fault (v : Bank) : (s.setSrom v).fault = s.fault := rfl
@[simp] theorem setSrom_ram (v : Bank) : (s.setSrom v).ram = s.ram := rfl
@[simp] theorem setSrom_brom (v : Bank) : (s.setSrom v).brom = s.brom := rfl
@[simp] theorem setSrom_srom (v : Bank) : (s.setSrom v).srom = v := rfl
@[simp] theorem setSrom_vias (v : Bank) : (s.setSrom v).vias = s.vias := rfl
@[simp] theorem setSrom_acia (v : Bank) : (s.setSrom v).acia = s.acia := rfl
@[simp] theorem setSrom_draws (v : Bank) : (s.setSrom v).draws = s.draws := rfl

@[simp] theorem setVias_cfg (v : List Via) : (s.setVias v).cfg = s.cfg := rfl
@[simp] theorem setVias_a (v : List Via) : (s.setVias v).a = s.a := rfl
@[simp] theorem setVias_x (v : List Via) : (s.setVias v).x = s.x := rfl
@[simp] theorem setVias_y (v : List Via) : (s.setVias v).y = s.y := rfl
@[simp] theorem setVias_sp (v : List Via) : (s.setVias v).sp = s.sp := rfl
@[simp] theorem setVias_pc (v : List Via) : (s.setVias v).pc = s.pc := rfl
@[simp] theorem setVias_p (v : List Via) : (s.setVias v).p = s.p := rfl
@[simp] theorem setVias_cycles (v : List Via) : (s.setVias v).cycles = s.cycles := rfl
@[simp] theorem setVias_running (v : List Via) : (s.setVias v).running = s.running := rfl
@[simp] theorem setVias_pendingNmi (v : List Via) : (s.setVias v).pendingNmi = s.pendingNmi := rfl
@[simp] theorem setVias_pendingIrq (v : List Via) : (s.setVias v).pendingIrq = s.pendingIrq := rfl
@[simp] theorem setVias_mode (v : List Via) : (s.setVias v).mode = s.mode := rfl
@[simp] theorem setVias_fault (v : List Via) : (s.setVias v).fault = s.fault := rfl
@[simp] theorem setVias_ram (v : List Via) : (s.setVias v).ram = s.ram := rfl
@[simp] theorem setVias_brom (v : List Via) : (s.setVias v).brom = s.brom := rfl
@[simp] theorem setVias_srom (v : List Via) : (s.setVias v).srom = s.srom := rfl
@[simp] theorem setVias_vias (v : List Via) : (s.setVias v).vias = v := rfl
@[simp] theorem setVias_acia (v : List Via) : (s.setVias v).acia = s.acia := rfl
@[simp] theorem setVias_draws (v : List Via) : (s.setVias v).draws = s.draws := rfl

@[simp] theorem setAcia_cfg (v : Acia) : (s.setAcia v).cfg = s.cfg := rfl
@[simp] theorem setAcia_a (v : Acia) : (s.setAcia v).a = s.a := rfl
@[simp] theorem setAcia_x (v : Acia) : (s.setAcia v).x = s.x := rfl
@[simp] theorem setAcia_y (v : Acia) : (s.setAcia v).y = s.y := rfl
@[simp] theorem setAcia_sp (v : Acia) : (s.setAcia v).sp = s.sp := rfl
@[simp] theorem setAcia_pc (v : Acia) : (s.setAcia v).pc = s.pc := rfl
@[simp] theorem setAcia_p (v : Acia) : (s.setAcia v).p = s.p := rfl
@[simp] theorem setAcia_cycles (v : Acia) : (s.setAcia v).cycles = s.cycles := rfl
@[simp] theorem setAcia_running (v : Acia) : (s.setAcia v).running = s.running := rfl
@[simp] theorem setAcia_pendingNmi (v : Acia) : (s.setAcia v).pendingNmi = s.pendingNmi := rfl
@[simp] theorem setAcia_pendingIrq (v : Acia) : (s.setAcia v).pendingIrq = s.pendingIrq := rfl
@[simp] theorem setAcia_mode (v : Acia) : (s.setAcia v).mode = s.mode := rfl
@[simp] theorem setAcia_fault (v : Acia) : (s.setAcia v).fault = s.fault := rfl
@[simp] theorem setAcia_ram (v : Acia) : (s.setAcia v).ram = s.ram := rfl
@[simp] theorem setAcia_brom (v : Acia) : (s.setAcia v).brom = s.brom := rfl
@[simp] theorem setAcia_srom (v : Acia) : (s.setAcia v).srom = s.srom := rfl
@[simp] theorem setAcia_vias (v : Acia) : (s.setAcia v).vias = s.vias := rfl
@[simp] theorem setAcia_acia (v : Acia) : (s.setAcia v).acia = v := rfl
@[simp] theorem setAcia_draws (v : Acia) : (s.setAcia v).draws = s.draws := rfl

@[simp] theorem setDraws_cfg (v : Nat) : (s.setDraws v).cfg = s.cfg := rfl
@[simp] theorem setDraws_a (v : Nat) : (s.setDraws v).a = s.a := rfl
@[simp] theorem setDraws_x (v : Nat) : (s.setDraws v).x = s.x := rfl
@[simp] theorem setDraws_y (v : Nat) : (s.setDraws v).y = s.y := rfl
@[simp] theorem setDraws_sp (v : Nat) : (s.setDraws v).sp = s.sp := rfl
@[simp] theorem setDraws_pc (v : Nat) : (s.setDraws v).pc = s.pc := rfl
@[simp] theorem setDraws_p (v : Nat) : (s.setDraws v).p = s.p := rfl
@[simp] theorem setDraws_cycles (v : Nat) : (s.setDraws v).cycles = s.cycles := rfl
@[simp] theorem setDraws_running (v : Nat) : (s.setDraws v).running = s.running := rfl
@[simp] theorem setDraws_pendingNmi (v : Nat) : (s.setDraws v).pendingNmi = s.pendingNmi := rfl
@[simp] theorem setDraws_pendingIrq (v : Nat) : (s.setDraws v).pendingIrq = s.pendingIrq := rfl
@[simp] theorem setDraws_mode (v : Nat) : (s.setDraws v).mode = s.mode := rfl
@[simp] theorem setDraws_fault (v : Nat) : (s.setDraws v).fault = s.fault := rfl
@[simp] theorem setDraws_ram (v : Nat) : (s.setDraws v).ram = s.ram := rfl
@[simp] theorem setDraws_brom (v : Nat) : (s.setDraws v).brom = s.brom := rfl
@[simp] theorem setDraws_srom (v : Nat) : (s.setDraws v).srom = s.srom := rfl
@[simp] theorem setDraws_vias (v : Nat) : (s.setDraws v).vias = s.vias := rfl
@[simp] theorem setDraws_acia (v : Nat) : (s.setDraws v).acia = s.acia := rfl
@[simp] theorem setDraws_draws (v : Nat) : (s.setDraws v).draws = v := rfl

@[simp] theorem latch_cfg (v : Fault) : (s.latch v).cfg = s.cfg := rfl
@[simp] theorem latch_a (v : Fault) : (s.latch v).a = s.a := rfl
@[simp] theorem latch_x (v : Fault) : (s.latch v).x = s.x := rfl
@[simp] theorem latch_y (v : Fault) : (s.latch v).y = s.y := rfl
@[simp] theorem latch_sp (v : Fault) : (s.latch v).sp = s.sp := rfl
@[simp] theorem latch_pc (v : Fault) : (s.latch v).pc = s.pc := rfl
@[simp] theorem latch_p (v : Fault) : (s.latch v).p = s.p := rfl
@[simp] theorem latch_cycles (v : Fault) : (s.latch v).cycles = s.cycles := rfl
@[simp] theorem latch_running (v : Fault) : (s.latch v).running = s.running := rfl
@[simp] theorem latch_pendingNmi (v : Fault) : (s.latch v).pendingNmi = s.pendingNmi := rfl
@[simp] theorem latch_pendingIrq (v : Fault) : (s.latch v).pendingIrq = s.pendingIrq := rfl
@[simp] theorem latch_mode (v : Fault) : (s.latch v).mode = s.mode := rfl
@[simp] theorem latch_fault (v : Fault) : (s.latch v).fault = some v := rfl
@[simp] theorem latch_ram (v : Fault) : (s.latch v).ram = s.ram := rfl
@[simp] theorem latch_brom (v : Fault) : (s.latch v).brom = s.brom := rfl
@[simp] theorem latch_srom (v : Fault) : (s.latch v).srom = s.srom := rfl
@[simp] theorem latch_vias (v : Fault) : (s.latch v).vias = s.vias := rfl
@[simp] theorem latch_acia (v : Fault) : (s.latch v).acia = s.acia := rfl
@[simp] theorem latch_draws (v : Fault) : (s.latch v).draws = s.draws := rfl

@[simp] theorem setNZ_cfg (v : Byte) : (s.setNZ v).cfg = s.cfg := rfl
@[simp] theorem setNZ_a (v : Byte) : (s.setNZ v).a = s.a := rfl
@[simp] theorem setNZ_x (v : Byte) : (s.setNZ v).x = s.x := rfl
@[simp] theorem setNZ_y (v : Byte) : (s.setNZ v).y = s.y := rfl
@[simp] theorem setNZ_sp (v : Byte) : (s.setNZ v).sp = s.sp := rfl
@[simp] theorem setNZ_pc (v : Byte) : (s.setNZ v).pc = s.pc := rfl
@[simp] theorem setNZ_cycles (v : Byte) : (s.setNZ v).cycles = s.cycles := rfl
@[simp] theorem setNZ_running (v : Byte) : (s.setNZ v).running = s.running := rfl
@[simp] theorem setNZ_pendingNmi (v : Byte) : (s.setNZ v).pendingNmi = s.pendingNmi := rfl
@[simp] theorem setNZ_pendingIrq (v : Byte) : (s.setNZ v).pendingIrq = s.pendingIrq := rfl
@[simp] theorem setNZ_mode (v : Byte) : (s.setNZ v).mode = s.mode := rfl
@[simp] theorem setNZ_fault (v : Byte) : (s.setNZ v).fault = s.fault := rfl
@[simp] theorem setNZ_ram (v : Byte) : (s.setNZ v).ram = s.ram := rfl
@[simp] theorem setNZ_brom (v : Byte) : (s.setNZ v).brom = s.brom := rfl
@[simp] theorem setNZ_srom (v : Byte) : (s.setNZ v).srom = s.srom := rfl
@[simp] theorem setNZ_vias (v : Byte) : (s.setNZ v).vias = s.vias := rfl
@[simp] theorem setNZ_acia (v : Byte) : (s.setNZ v).acia = s.acia := rfl
@[simp] theorem setNZ_draws (v : Byte) : (s.setNZ v).draws = s.draws := rfl
@[simp] theorem setNZ_p (v : Byte) : (s.setNZ v).p = s.p.setNZ v := rfl

end Sys2Proof.Machine.State
end

