-- ==== Sys2Proof/Laws/Tick.lean ====
section
/-! SUPPORT. What a clock tick can do (R86): the counter, the VIAs and the pending latches; nothing else. -/

namespace Sys2Proof.Machine

namespace State

variable (s : State)

@[simp] theorem still_cfg : s.still.cfg = s.cfg := rfl
@[simp] theorem still_a : s.still.a = s.a := rfl
@[simp] theorem still_x : s.still.x = s.x := rfl
@[simp] theorem still_y : s.still.y = s.y := rfl
@[simp] theorem still_sp : s.still.sp = s.sp := rfl
@[simp] theorem still_p : s.still.p = s.p := rfl
@[simp] theorem still_running : s.still.running = s.running := rfl
@[simp] theorem still_mode : s.still.mode = s.mode := rfl
@[simp] theorem still_fault : s.still.fault = s.fault := rfl
@[simp] theorem still_ram : s.still.ram = s.ram := rfl
@[simp] theorem still_brom : s.still.brom = s.brom := rfl
@[simp] theorem still_srom : s.still.srom = s.srom := rfl
@[simp] theorem still_draws : s.still.draws = s.draws := rfl

@[simp] theorem still_setCycles (n : Nat) : (s.setCycles n).still = s.still := rfl
@[simp] theorem still_setPendingNmi (b : Bool) : (s.setPendingNmi b).still = s.still := rfl
@[simp] theorem still_setPendingIrq (b : Bool) : (s.setPendingIrq b).still = s.still := rfl
@[simp] theorem still_setVias (v : List Via) : (s.setVias v).still = s.still := rfl
@[simp] theorem still_setAcia (d : Acia) : (s.setAcia d).still = s.still := rfl
@[simp] theorem still_setPc (v : Addr) : (s.setPc v).still = s.still := rfl

/-! Equal but for clock and devices means equal in every other field. -/

theorem cfg_of_still {s t : State} (h : t.still = s.still) : t.cfg = s.cfg := by
  have := congrArg State.cfg h
  simpa using this
theorem a_of_still {s t : State} (h : t.still = s.still) : t.a = s.a := by
  have := congrArg State.a h
  simpa using this
theorem x_of_still {s t : State} (h : t.still = s.still) : t.x = s.x := by
  have := congrArg State.x h
  simpa using this
theorem y_of_still {s t : State} (h : t.still = s.still) : t.y = s.y := by
  have := congrArg State.y h
  simpa using this
theorem sp_of_still {s t : State} (h : t.still = s.still) : t.sp = s.sp := by
  have := congrArg State.sp h
  simpa using this
theorem p_of_still {s t : State} (h : t.still = s.still) : t.p = s.p := by
  have := congrArg State.p h
  simpa using this
theorem running_of_still {s t : State} (h : t.still = s.still) : t.running = s.running := by
  have := congrArg State.running h
  simpa using this
theorem mode_of_still {s t : State} (h : t.still = s.still) : t.mode = s.mode := by
  have := congrArg State.mode h
  simpa using this
theorem fault_of_still {s t : State} (h : t.still = s.still) : t.fault = s.fault := by
  have := congrArg State.fault h
  simpa using this
theorem ram_of_still {s t : State} (h : t.still = s.still) : t.ram = s.ram := by
  have := congrArg State.ram h
  simpa using this
theorem brom_of_still {s t : State} (h : t.still = s.still) : t.brom = s.brom := by
  have := congrArg State.brom h
  simpa using this
theorem srom_of_still {s t : State} (h : t.still = s.still) : t.srom = s.srom := by
  have := congrArg State.srom h
  simpa using this
theorem draws_of_still {s t : State} (h : t.still = s.still) : t.draws = s.draws := by
  have := congrArg State.draws h
  simpa using this

theorem request_cases (l : IrqLine) :
    s.request l = s.setPendingIrq true ∨ s.request l = s.setPendingNmi true := by cases l <;> simp [request]

theorem viaRequest_cases (i : Nat) (q : Bool) :
    s.viaRequest i q = s ∨ s.viaRequest i q = s.setPendingIrq true ∨ s.viaRequest i q = s.setPendingNmi true := by
  unfold viaRequest
  split
  · split
    · exact .inr (s.request_cases _)
    · exact .inl rfl
  · exact .inl rfl

@[simp] theorem viaRequest_still (i : Nat) (q : Bool) : (s.viaRequest i q).still = s.still := by
  rcases s.viaRequest_cases i q with h | h | h <;> rw [h] <;> rfl

@[simp] theorem viaRequest_pc (i : Nat) (q : Bool) : (s.viaRequest i q).pc = s.pc := by
  rcases s.viaRequest_cases i q with h | h | h <;> rw [h] <;> rfl

@[simp] theorem viaRequest_cycles (i : Nat) (q : Bool) : (s.viaRequest i q).cycles = s.cycles := by
  rcases s.viaRequest_cases i q with h | h | h <;> rw [h] <;> rfl

@[simp] theorem viaRequest_vias (i : Nat) (q : Bool) : (s.viaRequest i q).vias = s.vias := by
  rcases s.viaRequest_cases i q with h | h | h <;> rw [h] <;> rfl

@[simp] theorem viaRequest_acia (i : Nat) (q : Bool) : (s.viaRequest i q).acia = s.acia := by
  rcases s.viaRequest_cases i q with h | h | h <;> rw [h] <;> rfl

theorem viaRequest_pendingNmi (i : Nat) (q : Bool) (h : s.pendingNmi = true) :
    (s.viaRequest i q).pendingNmi = true := by
  rcases s.viaRequest_cases i q with e | e | e <;> rw [e] <;> simp [h]

theorem viaRequest_pendingIrq (i : Nat) (q : Bool) (h : s.pendingIrq = true) :
    (s.viaRequest i q).pendingIrq = true := by
  rcases s.viaRequest_cases i q with e | e | e <;> rw [e] <;> simp [h]

theorem clockVia_cases (i : Nat) :
    s.clockVia i = s ∨ ∃ vs q, vs.length = s.vias.length ∧ s.clockVia i = (s.setVias vs).viaRequest i q := by
  unfold clockVia
  split
  · exact .inl rfl
  · exact .inr ⟨_, _, List.length_set, rfl⟩

/-- What a tick keeps is what the counter update and every VIA edge keep. -/
theorem tick_keeps {γ : Sort _} (f : State → γ) (h0 : ∀ s n, f (s.setCycles n) = f s)
    (hv : ∀ s i, f (s.clockVia i) = f s) : f s.tick = f s := by
  unfold tick
  generalize List.range s.cfg.vias.length = l
  rw [← h0 s (nextCycle s.cfg s.cycles)]
  generalize s.setCycles (nextCycle s.cfg s.cycles) = t
  induction l generalizing t with
  | nil => rfl
  | cons i l ih => rw [List.foldl_cons, ih, hv]

@[simp] theorem clockVia_still (i : Nat) : (s.clockVia i).still = s.still := by
  rcases s.clockVia_cases i with h | ⟨vs, q, -, h⟩ <;> rw [h] <;> simp

@[simp] theorem tick_still : s.tick.still = s.still := s.tick_keeps still (fun _ _ => rfl) fun t i => t.clockVia_still i

@[simp] theorem tick_cfg : s.tick.cfg = s.cfg := cfg_of_still s.tick_still
@[simp] theorem tick_a : s.tick.a = s.a := a_of_still s.tick_still
@[simp] theorem tick_x : s.tick.x = s.x := x_of_still s.tick_still
@[simp] theorem tick_y : s.tick.y = s.y := y_of_still s.tick_still
@[simp] theorem tick_sp : s.tick.sp = s.sp := sp_of_still s.tick_still
@[simp] theorem tick_p : s.tick.p = s.p := p_of_still s.tick_still
@[simp] theorem tick_running : s.tick.running = s.running := running_of_still s.tick_still
@[simp] theorem tick_mode : s.tick.mode = s.mode := mode_of_still s.tick_still
@[simp] theorem tick_fault : s.tick.fault = s.fault := fault_of_still s.tick_still
@[simp] theorem tick_ram : s.tick.ram = s.ram := ram_of_still s.tick_still
@[simp] theorem tick_brom : s.tick.brom = s.brom := brom_of_still s.tick_still
@[simp] theorem tick_srom : s.tick.srom = s.srom := srom_of_still s.tick_still
@[simp] theorem tick_draws : s.tick.draws = s.draws := draws_of_still s.tick_still


@[simp] theorem tick_pc : s.tick.pc = s.pc :=
  s.tick_keeps pc (fun _ _ => rfl) fun t i => by
    rcases t.clockVia_cases i with h | ⟨vs, q, -, h⟩ <;> rw [h] <;> simp

@[simp] theorem tick_acia : s.tick.acia = s.acia :=
  s.tick_keeps acia (fun _ _ => rfl) fun t i => by
    rcases t.clockVia_cases i with h | ⟨vs, q, -, h⟩ <;> rw [h] <;> simp

@[simp] theorem tick_viaCount : s.tick.vias.length = s.vias.length :=
  s.tick_keeps (fun t => t.vias.length) (fun _ _ => rfl) fun t i => by
    rcases t.clockVia_cases i with h | ⟨vs, q, hl, h⟩ <;> rw [h]
    simpa using hl

/-- A property that the counter update and every VIA edge keep is kept by a tick. -/
theorem tick_preserves {P : State → Prop} (h0 : ∀ s n, P s → P (s.setCycles n)) (hv : ∀ s i, P s → P (s.clockVia i))
    (h : P s) : P s.tick := by
  unfold tick
  generalize List.range s.cfg.vias.length = l
  replace h := h0 s (nextCycle s.cfg s.cycles) h
  generalize s.setCycles (nextCycle s.cfg s.cycles) = t at h ⊢
  induction l generalizing t with
  | nil => exact h
  | cons i l ih => exact ih _ (hv t i h)

theorem tick_pendingNmi (h : s.pendingNmi = true) : s.tick.pendingNmi = true :=
  s.tick_preserves (P := fun t => t.pendingNmi = true) (fun _ _ h => h) (fun t i h => by
    rcases t.clockVia_cases i with e | ⟨vs, q, -, e⟩ <;> rw [e]
    · exact h
    · exact viaRequest_pendingNmi _ _ _ h) h

theorem tick_pendingIrq (h : s.pendingIrq = true) : s.tick.pendingIrq = true :=
  s.tick_preserves (P := fun t => t.pendingIrq = true) (fun _ _ h => h) (fun t i h => by
    rcases t.clockVia_cases i with e | ⟨vs, q, -, e⟩ <;> rw [e]
    · exact h
    · exact viaRequest_pendingIrq _ _ _ h) h

/-- A tick advances the counter by one (R26, R86). -/
@[simp] theorem tick_cycles : s.tick.cycles = nextCycle s.cfg s.cycles := by
  unfold tick
  generalize hn : nextCycle s.cfg s.cycles = n
  suffices h : ∀ (l : List Nat) (t : State), (l.foldl clockVia t).cycles = t.cycles from h _ _
  intro l
  induction l with
  | nil => exact fun _ => rfl
  | cons i l ih =>
    intro t
    rw [List.foldl_cons, ih]
    rcases t.clockVia_cases i with h | ⟨vs, q, -, h⟩ <;> rw [h] <;> simp

/-! ## Several ticks -/

@[simp] theorem ticks_zero : s.ticks 0 = s := rfl
theorem ticks_succ (n : Nat) : s.ticks (n + 1) = s.tick.ticks n := rfl

@[simp] theorem ticks_still (n : Nat) : (s.ticks n).still = s.still := by
  induction n generalizing s with
  | zero => rfl
  | succ n ih => rw [ticks_succ, ih, tick_still]

theorem ticks_ticks (m n : Nat) : (s.ticks m).ticks n = s.ticks (m + n) := by
  induction m generalizing s with
  | zero => simp
  | succ m ih => rw [ticks_succ, ih, show m + 1 + n = (m + n) + 1 by omega, ticks_succ]

/-- The counter after some ticks depends on the counter and the configuration alone. -/
theorem ticks_cycles_congr (n : Nat) {s t : State} (hc : t.cfg = s.cfg) (h : t.cycles = s.cycles) :
    (t.ticks n).cycles = (s.ticks n).cycles := by
  induction n generalizing s t with
  | zero => exact h
  | succ n ih => exact ih (by simp [hc]) (by simp [hc, h])

end State

end Sys2Proof.Machine
end

