-- ==== Sys2Proof/Laws/Bus.lean ====
section
/-! SUPPORT. What a bus access can do (R84 to R93): when it succeeds, what it leaves alone, and what memory holds
after it. -/

namespace Sys2Proof.Machine

/-! ## The map -/

/-- Two addresses with one RAM offset are one address. -/
theorem target_ram_inj {c : Cfg} {a b : Addr} {o : Nat} (ha : target c a = .ram o) (hb : target c b = .ram o) :
    a = b := by
  have key : ∀ x : Addr, target c x = .ram o → x.toNat = c.ramStart + o := by
    intro x hx
    unfold target at hx
    simp only at hx
    split at hx
    · cases hx
    · split at hx
      · rename_i t hv
        have : ∀ l i t, viaTarget x.toNat i l = some t → ∃ j r, t = .via j r := by
          intro l
          induction l with
          | nil => intro i t h; cases h
          | cons v l ih =>
            intro i t h
            unfold viaTarget at h
            split at h
            · cases h; exact ⟨_, _, rfl⟩
            · exact ih _ _ h
        obtain ⟨j, r, rfl⟩ := this _ _ _ hv
        cases hx
      · split at hx
        · cases hx
        · split at hx
          · cases hx
          · split at hx
            · cases hx
            · split at hx
              · rename_i h
                simp only [inWindow, Bool.and_eq_true, decide_eq_true_eq] at h
                injection hx with hx
                omega
              · cases hx
  exact BitVec.eq_of_toNat_eq (by rw [key a ha, key b hb])

/-- A RAM offset lies inside the bank. -/
theorem target_ram_lt {c : Cfg} {a : Addr} {o : Nat} (h : target c a = .ram o) : o < c.ramSize := by
  unfold target at h
  simp only at h
  split at h
  · cases h
  · split at h
    · rename_i t hv
      have : ∀ l i t, viaTarget a.toNat i l = some t → ∃ j r, t = .via j r := by
        intro l
        induction l with
        | nil => intro i t h; cases h
        | cons v l ih =>
          intro i t h
          unfold viaTarget at h
          split at h
          · cases h; exact ⟨_, _, rfl⟩
          · exact ih _ _ h
      obtain ⟨j, r, rfl⟩ := this _ _ _ hv
      cases h
    · split at h
      · cases h
      · split at h
        · cases h
        · split at h
          · cases h
          · split at h
            · rename_i hw
              simp only [inWindow, Bool.and_eq_true, decide_eq_true_eq] at hw
              injection h with h
              omega
            · cases h

/-! ## Reads -/

/-- A dispatched read changes at most a VIA or the ACIA. -/
theorem dispatchRead_still (a : Addr) (s : State) : (endState (dispatchRead a s)).still = s.still := by
  unfold dispatchRead
  split <;> try rfl
  split <;> rfl

theorem dispatchRead_pc (a : Addr) (s : State) : (endState (dispatchRead a s)).pc = s.pc := by
  unfold dispatchRead
  split <;> try rfl
  split <;> rfl

theorem dispatchRead_cycles (a : Addr) (s : State) : (endState (dispatchRead a s)).cycles = s.cycles := by
  unfold dispatchRead
  split <;> try rfl
  split <;> rfl

theorem dispatchRead_pending (a : Addr) (s : State) :
    (endState (dispatchRead a s)).pendingNmi = s.pendingNmi ∧
    (endState (dispatchRead a s)).pendingIrq = s.pendingIrq := by
  unfold dispatchRead
  split <;> try exact ⟨rfl, rfl⟩
  split <;> exact ⟨rfl, rfl⟩

/-- A dispatched read succeeds exactly at the readable addresses (R92). -/
theorem dispatchRead_ok {a : Addr} {s : State} (h : readable s.cfg a = true) : ∃ v t, dispatchRead a s = .ok v t := by
  unfold readable at h
  unfold dispatchRead
  cases ht : target s.cfg a <;> simp only [ht] at h ⊢
  case hole => cases h
  case fallback =>
    simp only [Bool.not_eq_true'] at h
    simp [h]
  all_goals exact ⟨_, _, rfl⟩

theorem dispatchRead_error {a : Addr} {s t : State} {f : Fault} (h : dispatchRead a s = .error f t) :
    readable s.cfg a = false ∧ t = s := by
  unfold dispatchRead at h
  split at h <;> rename_i ht <;> try cases h
  · simp [readable, ht]
  · split at h
    · cases h
      simp [readable, *]
    · cases h

/-! ## Memory bytes -/

/-- Memory is not the clock's nor the devices' matter. -/
theorem memByte_of_still {s t : State} (h : t.still = s.still) (a : Addr) : t.memByte a = s.memByte a := by
  simp [State.memByte, State.cfg_of_still h, State.ram_of_still h, State.brom_of_still h, State.srom_of_still h]

@[simp] theorem memByte_tick (s : State) (a : Addr) : s.tick.memByte a = s.memByte a := memByte_of_still s.tick_still a
@[simp] theorem memByte_ticks (s : State) (n : Nat) (a : Addr) : (s.ticks n).memByte a = s.memByte a :=
  memByte_of_still (s.ticks_still n) a
@[simp] theorem memByte_setA (s : State) (v : Byte) (a : Addr) : (s.setA v).memByte a = s.memByte a := rfl
@[simp] theorem memByte_setX (s : State) (v : Byte) (a : Addr) : (s.setX v).memByte a = s.memByte a := rfl
@[simp] theorem memByte_setY (s : State) (v : Byte) (a : Addr) : (s.setY v).memByte a = s.memByte a := rfl
@[simp] theorem memByte_setSp (s : State) (v : Byte) (a : Addr) : (s.setSp v).memByte a = s.memByte a := rfl
@[simp] theorem memByte_setPc (s : State) (v : Addr) (a : Addr) : (s.setPc v).memByte a = s.memByte a := rfl
@[simp] theorem memByte_setP (s : State) (v : Flags) (a : Addr) : (s.setP v).memByte a = s.memByte a := rfl
@[simp] theorem memByte_setMode (s : State) (v : Mode) (a : Addr) : (s.setMode v).memByte a = s.memByte a := rfl
@[simp] theorem memByte_setDraws (s : State) (v : Nat) (a : Addr) : (s.setDraws v).memByte a = s.memByte a := rfl
@[simp] theorem memByte_latch (s : State) (f : Fault) (a : Addr) : (s.latch f).memByte a = s.memByte a := rfl

/-- Reading an address that memory answers gives the byte and does nothing else. -/
theorem dispatchRead_memByte {a : Addr} {s : State} {v : Byte} (h : s.memByte a = some v) :
    dispatchRead a s = .ok v s := by
  unfold State.memByte at h
  unfold dispatchRead
  split at h <;> rename_i ht <;> rw [ht] <;> simp only
  · cases h; rfl
  · cases h; rfl
  · cases h; rfl
  · split at h
    · cases h
    · cases h; simp [*]
  all_goals cases h

/-- A bus read of an address that memory answers is a tick and the byte (R88). -/
theorem busRead_memByte {a : Addr} {s : State} {v : Byte} (h : s.memByte a = some v) :
    busRead a s = .ok v s.tick := by
  simp only [busRead, bind_apply, internal_apply]
  exact dispatchRead_memByte (by rw [memByte_tick]; exact h)

theorem readable_of_memByte {a : Addr} {s : State} {v : Byte} (h : s.memByte a = some v) :
    readable s.cfg a = true := by
  unfold State.memByte at h
  unfold readable
  split at h <;> rename_i ht <;> rw [ht]
  · split at h
    · cases h
    · simp [*]
  all_goals cases h

/-! ## Bus reads -/

theorem busRead_still (a : Addr) (s : State) : (endState (busRead a s)).still = s.still := by
  simp only [busRead, bind_apply, internal_apply]
  rw [dispatchRead_still, State.tick_still]

theorem busRead_pc (a : Addr) (s : State) : (endState (busRead a s)).pc = s.pc := by
  simp only [busRead, bind_apply, internal_apply]
  rw [dispatchRead_pc, State.tick_pc]

theorem busRead_cycles (a : Addr) (s : State) : (endState (busRead a s)).cycles = nextCycle s.cfg s.cycles := by
  simp only [busRead, bind_apply, internal_apply]
  rw [dispatchRead_cycles, State.tick_cycles]

/-- A bus read succeeds at every readable address, and all it changes is the clock and the device read. -/
theorem busRead_ok {a : Addr} {s : State} (h : readable s.cfg a = true) :
    ∃ v t, busRead a s = .ok v t ∧ t.still = s.still ∧ t.pc = s.pc ∧ t.cycles = nextCycle s.cfg s.cycles := by
  obtain ⟨v, t, e⟩ := dispatchRead_ok (s := s.tick) (a := a) (by simpa using h)
  have e' : busRead a s = .ok v t := by simpa [busRead] using e
  refine ⟨v, t, e', ?_, ?_, ?_⟩
  · simpa [e'] using busRead_still a s
  · simpa [e'] using busRead_pc a s
  · simpa [e'] using busRead_cycles a s

theorem busRead_ok_still {a : Addr} {s t : State} {v : Byte} (h : busRead a s = .ok v t) : t.still = s.still := by
  simpa [h] using busRead_still a s

theorem busRead_ok_pc {a : Addr} {s t : State} {v : Byte} (h : busRead a s = .ok v t) : t.pc = s.pc := by
  simpa [h] using busRead_pc a s

theorem busRead_error {a : Addr} {s t : State} {f : Fault} (h : busRead a s = .error f t) :
    readable s.cfg a = false ∧ t = s.tick := by
  simp only [busRead, bind_apply, internal_apply] at h
  simpa using dispatchRead_error h

/-! ## Writes -/

/-- A write changes RAM at its own address, or a device; nothing else. -/
theorem dispatchWrite_cases (a : Addr) (v : Byte) (s : State) :
    (∃ o, target s.cfg a = .ram o ∧ dispatchWrite a v s = .ok () (s.setRam (s.ram.store s.cfg.ramSize o v))) ∨
    (inRam s.cfg a = false ∧ (endState (dispatchWrite a v s)).still = s.still) := by
  unfold dispatchWrite inRam
  split <;> rename_i ht <;> simp only [ht]
  case h_6 => exact .inl ⟨_, rfl, rfl⟩
  case h_1 => right; split <;> simp
  case h_7 => right; split <;> simp
  all_goals exact .inr ⟨by simp, by simp⟩

theorem dispatchWrite_pc (a : Addr) (v : Byte) (s : State) : (endState (dispatchWrite a v s)).pc = s.pc := by
  unfold dispatchWrite
  split <;> try rfl
  all_goals (split <;> rfl)

theorem dispatchWrite_cycles (a : Addr) (v : Byte) (s : State) :
    (endState (dispatchWrite a v s)).cycles = s.cycles := by
  unfold dispatchWrite
  split <;> try rfl
  all_goals (split <;> rfl)

theorem dispatchWrite_pending (a : Addr) (v : Byte) (s : State) :
    (endState (dispatchWrite a v s)).pendingNmi = s.pendingNmi ∧
    (endState (dispatchWrite a v s)).pendingIrq = s.pendingIrq := by
  unfold dispatchWrite
  split <;> try exact ⟨rfl, rfl⟩
  all_goals (split <;> exact ⟨rfl, rfl⟩)

/-- A write succeeds at every writable address (R92). -/
theorem dispatchWrite_ok {a : Addr} {s : State} (v : Byte) (h : writable s.cfg a = true) :
    ∃ t, dispatchWrite a v s = .ok () t := by
  cases ht : target s.cfg a with
  | acia r =>
    simp only [writable, ht, Bool.or_eq_true, decide_eq_true_eq] at h
    rcases h with rfl | rfl <;> exact ⟨_, by simp only [dispatchWrite, ht, Acia.write]; rfl⟩
  | via i r => exact ⟨_, by simp only [dispatchWrite, ht]; rfl⟩
  | hole => simp [writable, ht] at h
  | srom o => simp [writable, ht] at h
  | brom o => simp [writable, ht] at h
  | ram o => exact ⟨_, by simp only [dispatchWrite, ht]; rfl⟩
  | fallback =>
    simp only [writable, ht, Bool.not_eq_true'] at h
    exact ⟨_, by simp only [dispatchWrite, ht, h]; rfl⟩

/-- Storing into RAM changes the byte at that address and no other (R117). -/
theorem memByte_setRam_other {s : State} {a b : Addr} {o : Nat} (v : Byte) (ht : target s.cfg a = .ram o)
    (hb : b ≠ a) : (s.setRam (s.ram.store s.cfg.ramSize o v)).memByte b = s.memByte b := by
  unfold State.memByte
  simp only [State.setRam_cfg, State.setRam_ram, State.setRam_brom, State.setRam_srom]
  split <;> try rfl
  rename_i o' hb'
  have hne : o' ≠ o := fun e => hb (target_ram_inj (hb'.trans (e ▸ rfl)) ht)
  simp only [Bank.byte, Bank.store, Bank.index, Option.some.injEq]
  exact Memory.read_write_other v (by omega)

theorem memByte_setRam_same {s : State} {a : Addr} {o : Nat} (v : Byte) (ht : target s.cfg a = .ram o)
    (hw : Memory.wf s.ram.cells = true) :
    (s.setRam (s.ram.store s.cfg.ramSize o v)).memByte a = some v := by
  unfold State.memByte
  simp only [State.setRam_cfg, State.setRam_ram, ht, Bank.byte, Bank.store, Bank.index, Option.some.injEq]
  exact Memory.read_write_same hw _ v

/-- A write leaves memory at every other address as it was. -/
theorem dispatchWrite_memByte_other (a b : Addr) (v : Byte) (s : State) (hb : b ≠ a) :
    (endState (dispatchWrite a v s)).memByte b = s.memByte b := by
  rcases dispatchWrite_cases a v s with ⟨o, ht, e⟩ | ⟨-, e⟩
  · rw [e, endState_ok]
    exact memByte_setRam_other v ht hb
  · exact memByte_of_still e b

theorem busWrite_memByte_other (a b : Addr) (v : Byte) (s : State) (hb : b ≠ a) :
    (endState (busWrite a v s)).memByte b = s.memByte b := by
  simp only [busWrite, bind_apply, internal_apply]
  rw [dispatchWrite_memByte_other a b v _ hb, memByte_tick]

theorem busWrite_pc (a : Addr) (v : Byte) (s : State) : (endState (busWrite a v s)).pc = s.pc := by
  simp only [busWrite, bind_apply, internal_apply]
  rw [dispatchWrite_pc, State.tick_pc]

theorem busWrite_cycles (a : Addr) (v : Byte) (s : State) :
    (endState (busWrite a v s)).cycles = nextCycle s.cfg s.cycles := by
  simp only [busWrite, bind_apply, internal_apply]
  rw [dispatchWrite_cycles, State.tick_cycles]

theorem dispatchWrite_cfg (a : Addr) (v : Byte) (s : State) : (endState (dispatchWrite a v s)).cfg = s.cfg := by
  rcases dispatchWrite_cases a v s with ⟨o, -, e⟩ | ⟨-, e⟩
  · simp [e]
  · exact State.cfg_of_still e

theorem dispatchWrite_sp (a : Addr) (v : Byte) (s : State) : (endState (dispatchWrite a v s)).sp = s.sp := by
  rcases dispatchWrite_cases a v s with ⟨o, -, e⟩ | ⟨-, e⟩
  · simp [e]
  · exact State.sp_of_still e

theorem busWrite_cfg (a : Addr) (v : Byte) (s : State) : (endState (busWrite a v s)).cfg = s.cfg := by
  simp only [busWrite, bind_apply, internal_apply]
  rw [dispatchWrite_cfg, State.tick_cfg]

theorem busWrite_sp (a : Addr) (v : Byte) (s : State) : (endState (busWrite a v s)).sp = s.sp := by
  simp only [busWrite, bind_apply, internal_apply]
  rw [dispatchWrite_sp, State.tick_sp]

/-- A bus write succeeds at every writable address (R89, R92). -/
theorem busWrite_ok {a : Addr} {s : State} (v : Byte) (h : writable s.cfg a = true) :
    ∃ t, busWrite a v s = .ok () t := by
  simp only [busWrite, bind_apply, internal_apply]
  exact dispatchWrite_ok v (by simpa using h)

/-- A bus write to RAM: a tick, then the byte is there and the rest of the machine is as the tick left it. -/
theorem busWrite_ram {a : Addr} {s : State} (v : Byte) (h : inRam s.cfg a = true) :
    ∃ b, busWrite a v s = .ok () (s.tick.setRam b) ∧
      (Memory.wf s.ram.cells = true → Memory.wf b.cells = true) ∧
      (Memory.wf s.ram.cells = true → (s.tick.setRam b).memByte a = some v) ∧
      ∀ c, c ≠ a → (s.tick.setRam b).memByte c = s.memByte c := by
  obtain ⟨o, ht⟩ : ∃ o, target s.cfg a = .ram o := by
    unfold inRam at h
    split at h
    · exact ⟨_, ‹_›⟩
    · cases h
  have ht' : target s.tick.cfg a = .ram o := by simpa using ht
  refine ⟨s.tick.ram.store s.tick.cfg.ramSize o v, ?_, fun hw => ?_, fun hw => ?_, fun c hc => ?_⟩
  · simp only [busWrite, bind_apply, internal_apply]
    unfold dispatchWrite
    rw [ht']
  · simpa [Bank.store] using Memory.write_wf _ v hw
  · exact memByte_setRam_same v ht' (by simpa using hw)
  · rw [memByte_setRam_other v ht' hc, memByte_tick]

theorem writable_of_inRam {c : Cfg} {a : Addr} (h : inRam c a = true) : writable c a = true := by
  unfold inRam at h
  unfold writable
  split at h
  · rename_i o ht
    rw [ht]
  · cases h

theorem readable_of_inRam {c : Cfg} {a : Addr} (h : inRam c a = true) : readable c a = true := by
  unfold inRam at h
  unfold readable
  split at h
  · rename_i o ht
    rw [ht]
  · cases h

end Sys2Proof.Machine
end

