-- ==== Sys2Proof/Laws/Devices.lean ====
section
/-! SUPPORT. Small laws of the VIA's flags and of the ACIA's registers. -/

namespace Sys2Proof.Machine

theorem bit7_getLsbD (m n : Nat) (hm : m < 7) : (bit7 m).getLsbD n = decide (n = m) := by
  have key : ∀ m, m < 7 → ∀ n, n < 7 → (bit7 m).getLsbD n = decide (n = m) := by decide
  by_cases hn : n < 7
  · exact key m hm n hn
  · rw [BitVec.getLsbD_of_ge _ _ (by omega)]
    symm
    simp
    omega

/-- Clearing a flag clears that flag alone. -/
theorem Via.clearFlag_ifr (v : Via) (m n : Nat) (hm : m < 7) :
    (v.clearFlag m).ifr.getLsbD n = (v.ifr.getLsbD n && n != m) := by
  simp only [Via.clearFlag, BitVec.getLsbD_and, BitVec.getLsbD_not, bit7_getLsbD m n hm]
  by_cases hn : n < 7
  · cases hh : v.ifr.getLsbD n <;> by_cases h : n = m <;> simp [hn, h]
  · rw [BitVec.getLsbD_of_ge v.ifr n (by omega)]
    simp

/-- Setting a flag sets that flag alone (R456). -/
theorem Via.setFlag_ifr (v : Via) (m n : Nat) (hm : m < 7) :
    (v.setFlag m).1.ifr.getLsbD n = (v.ifr.getLsbD n || decide (n = m)) := by
  simp only [Via.setFlag, BitVec.getLsbD_or, bit7_getLsbD m n hm]

/-- A read of the ACIA leaves the lines and TX alone. -/
theorem Acia.read_keeps (d : Acia) (r : Nat) :
    (d.read r).2.dsrAsserted = d.dsrAsserted ∧ (d.read r).2.dcdAsserted = d.dcdAsserted ∧ (d.read r).2.tx = d.tx := by
  unfold Acia.read
  split <;> simp

/-- A write to the ACIA leaves the lines alone and only appends to TX. -/
theorem Acia.write_keeps {d e : Acia} {r : Nat} {v : Byte} (h : d.write r v = .ok e) :
    e.dsrAsserted = d.dsrAsserted ∧ e.dcdAsserted = d.dcdAsserted ∧ d.tx <+: e.tx := by
  unfold Acia.write at h
  split at h
  · cases h
    simp
  · cases h
    simp
  all_goals
    split at h
    · cases h
    · cases h
      simp

end Sys2Proof.Machine
end

