-- ==== Sys2Proof/Laws/Operands.lean ====
section
/-! SUPPORT. What the shared operations over operands and the stack can do: the relations that every bus read keeps,
and when fetches, effective addresses and operand reads complete. -/

namespace Sys2Proof.Machine

variable {α β : Type} {R : State → State → Prop}

/-- A relation that clock ticks, dispatched reads and changes of PC keep. -/
structure ReadFrame (R : State → State → Prop) : Prop extends Sequencing R where
  tick : ∀ s : State, R s s.tick
  read : ∀ (a : Addr) (s : State), R s (endState (dispatchRead a s))
  setPc : ∀ (s : State) (v : Addr), R s (s.setPc v)

/-- A relation that dispatched writes keep too. -/
structure BusFrame (R : State → State → Prop) : Prop extends ReadFrame R where
  write : ∀ (a : Addr) (v : Byte) (s : State), R s (endState (dispatchWrite a v s))

namespace ReadFrame

variable (hR : ReadFrame R)
include hR

theorem internal : Always R Machine.internal := hR.tick

theorem busRead (a : Addr) : Always R (Machine.busRead a) :=
  hR.bind hR.internal fun _ => hR.read a

theorem fetch : Always R Machine.fetch :=
  Sequencing.lookBind fun s => hR.bind (hR.busRead _) (fun _ => hR.bind (Sequencing.update fun t => hR.setPc t _) fun _ => hR.pure _) s

theorem operandByte (b : Byte) : Always R (Machine.operandByte b) := hR.bind hR.fetch fun _ => hR.pure _

theorem operandAddr (a : Addr) : Always R (Machine.operandAddr a) :=
  hR.bind hR.fetch fun _ => hR.bind hR.fetch fun _ => hR.pure _

theorem indexCycle (k : AccessKind) (b ea : Addr) : Always R (Machine.indexCycle k b ea) :=
  Sequencing.ite hR.internal (hR.pure _)

theorem indexed (k : AccessKind) (b : Addr) (i : Byte) : Always R (Machine.indexed k b i) :=
  hR.bind (hR.indexCycle k b _) fun _ => hR.pure _

theorem readPointer (p : Byte) : Always R (Machine.readPointer p) :=
  hR.bind (hR.busRead _) fun _ => hR.bind (hR.busRead _) fun _ => hR.pure _

theorem effectiveAddress (k : AccessKind) (m : Mem) : Always R (Machine.effectiveAddress k m) := by
  cases m with
  | zp z => exact hR.bind (hR.operandByte z) fun _ => hR.pure _
  | zpx z => exact hR.bind (hR.operandByte z) fun _ => hR.bind hR.internal fun _ => hR.bind (hR.look _) fun _ => hR.pure _
  | zpy z => exact hR.bind (hR.operandByte z) fun _ => hR.bind hR.internal fun _ => hR.bind (hR.look _) fun _ => hR.pure _
  | abs a => exact hR.operandAddr a
  | abx b => exact hR.bind (hR.operandAddr b) fun _ => hR.bind (hR.look _) fun _ => hR.indexed k _ _
  | aby b => exact hR.bind (hR.operandAddr b) fun _ => hR.bind (hR.look _) fun _ => hR.indexed k _ _
  | izx z =>
    exact hR.bind (hR.operandByte z) fun _ => hR.bind hR.internal fun _ => hR.bind (hR.look _) fun _ => hR.readPointer _
  | izy z =>
    exact hR.bind (hR.operandByte z) fun _ => hR.bind (hR.readPointer _) fun _ => hR.bind (hR.look _) fun _ => hR.indexed k _ _
  | izp z => exact hR.bind (hR.operandByte z) fun _ => hR.readPointer _

theorem readOperand (o : ReadOp) : Always R (Machine.readOperand o) := by
  cases o with
  | imm v => exact hR.operandByte v
  | mem m => exact hR.bind (hR.effectiveAddress .read m) fun _ => hR.busRead _

theorem pull (hSp : ∀ (s : State) (v : Byte), R s (s.setSp v)) : Always R Machine.pull :=
  hR.bind (Sequencing.update fun s => hSp s _) fun _ => hR.bind (hR.look _) fun _ => hR.busRead _

theorem loadVector (vec : Addr) : Always R (Machine.loadVector vec) :=
  hR.bind (hR.busRead _) fun _ => hR.bind (hR.busRead _) fun _ => Sequencing.update fun s => hR.setPc s _

end ReadFrame

namespace BusFrame

variable (hR : BusFrame R)
include hR

theorem busWrite (a : Addr) (v : Byte) : Always R (Machine.busWrite a v) :=
  hR.bind hR.internal fun _ => hR.write a v

theorem push (hSp : ∀ (s : State) (v : Byte), R s (s.setSp v)) (v : Byte) : Always R (Machine.push v) :=
  hR.bind (hR.look _) fun _ => hR.bind (hR.busWrite _ _) fun _ => Sequencing.update fun s => hSp s _

theorem writeOperand (m : Mem) (value : State → Byte) : Always R (Machine.writeOperand m value) :=
  hR.bind (hR.effectiveAddress .write m) fun _ => hR.bind (hR.look _) fun _ => hR.busWrite _ _

omit hR in
theorem applyModification (f : Modification) (v : Byte) (hP : ∀ s : State, R s (s.setP (f s v).1)) :
    Always R (Machine.applyModification f v) := by
  intro s
  simpa [Machine.applyModification] using hP s

theorem modifyMem (k : AccessKind) (m : Mem) (f : Modification) (hP : ∀ (s : State) v, R s (s.setP (f s v).1)) :
    Always R (Machine.modifyMem k m f) :=
  hR.bind (hR.effectiveAddress k m) fun _ => hR.bind (hR.busRead _) fun _ => hR.bind hR.internal fun _ =>
    hR.bind (applyModification f _ fun s => hP s _) fun _ => hR.busWrite _ _

/-- Taking an exception: what the pushes, the status change and the vector read keep. -/
theorem takeException (hSp : ∀ (s : State) (v : Byte), R s (s.setSp v))
    (hP : ∀ s : State, R s (s.setP { s.p with i := true, d := false })) (b : Bool) (vec : Addr) :
    Always R (Machine.takeException b vec) :=
  hR.bind (hR.look _) fun _ => hR.bind (hR.push hSp _) fun _ => hR.bind (hR.push hSp _) fun _ =>
    hR.bind (hR.look _) fun _ => hR.bind (hR.push hSp _) fun _ => hR.bind (Sequencing.update hP) fun _ =>
      hR.loadVector vec

end BusFrame

/-! ## The relation of bus reads: nothing but clock, devices and PC -/

/-- Nothing but clock, devices and PC changed. -/
def Still (s t : State) : Prop := t.still = s.still

theorem still_frame : ReadFrame Still where
  refl _ := rfl
  trans _ _ _ h h' := Eq.trans h' h
  tick s := s.tick_still
  read := dispatchRead_still
  setPc s v := s.still_setPc v

/-! ## Fetches -/

theorem fetch_ok {s : State} (h : readable s.cfg s.pc = true) :
    ∃ v t, fetch s = .ok v t ∧ t.still = s.still ∧ t.pc = s.pc + 1 := by
  obtain ⟨v, t, e, hs, hp, -⟩ := busRead_ok h
  exact ⟨v, t.setPc (t.pc + 1), by simp only [fetch, bind_apply, look_apply, e, update_apply, pure_apply], by simpa using hs, by simp [hp]⟩

/-- Fetching from memory: a tick, PC moves on, the byte is the one memory holds (R141). -/
theorem fetch_memByte {s : State} {v : Byte} (h : s.memByte s.pc = some v) :
    fetch s = .ok v (s.tick.setPc (s.pc + 1)) := by
  simp only [fetch, bind_apply, look_apply, busRead_memByte h, update_apply, pure_apply, State.tick_pc]

/-- A fetch spends one cycle. -/
theorem fetch_cycles {s t : State} {v : Byte} (h : fetch s = .ok v t) : t.cycles = s.tick.cycles := by
  simp only [fetch, bind_apply, look_apply] at h
  split at h
  · rename_i b u e
    have hc := busRead_cycles s.pc s
    rw [e] at hc
    simp only [update_apply, pure_apply] at h
    cases h
    simpa using hc
  · cases h

theorem operandByte_ok {s : State} (b : Byte) (h : readable s.cfg s.pc = true) :
    ∃ t, operandByte b s = .ok b t ∧ t.still = s.still ∧ t.pc = s.pc + 1 := by
  obtain ⟨v, t, e, hs, hp⟩ := fetch_ok h
  exact ⟨t, by simp [operandByte, e], hs, hp⟩

theorem operandByte_cycles {s t : State} {b v : Byte} (h : operandByte b s = .ok v t) : t.cycles = s.tick.cycles := by
  simp only [operandByte, bind_apply] at h
  split at h
  · rename_i e
    cases h
    exact fetch_cycles e
  · cases h

theorem operandByte_value {s t : State} {b v : Byte} (h : operandByte b s = .ok v t) : v = b := by
  simp only [operandByte, bind_apply] at h
  split at h
  · cases h; rfl
  · cases h

theorem operandAddr_ok {s : State} (a : Addr) (h : readable s.cfg s.pc = true) (h' : readable s.cfg (s.pc + 1) = true) :
    ∃ t, operandAddr a s = .ok a t ∧ t.still = s.still ∧ t.pc = s.pc + 2 := by
  obtain ⟨v, t, e, hs, hp⟩ := fetch_ok h
  obtain ⟨v', t', e', hs', hp'⟩ := fetch_ok (s := t) (by rwa [State.cfg_of_still hs, hp])
  exact ⟨t', by simp only [operandAddr, bind_apply, e, e', pure_apply], hs'.trans hs, by rw [hp', hp, BitVec.add_assoc]; rfl⟩

theorem operandAddr_cycles {s t : State} {a b : Addr} (h : operandAddr a s = .ok b t) :
    t.cycles = (s.ticks 2).cycles := by
  simp only [operandAddr, bind_apply] at h
  split at h
  · rename_i x u e1
    split at h
    · rename_i y w e2
      cases h
      have hc : u.cfg = s.cfg := State.cfg_of_still (still_frame.fetch.ok e1)
      rw [fetch_cycles e2]
      simp [State.ticks, hc, fetch_cycles e1]
    · cases h
  · cases h

theorem fetchable_one {s : State} (h : fetchable 1 s = true) : readable s.cfg s.pc = true := by
  simpa [fetchable, List.range_succ] using h

theorem fetchable_two {s : State} (h : fetchable 2 s = true) :
    readable s.cfg s.pc = true ∧ readable s.cfg (s.pc + 1) = true := by
  simpa [fetchable, List.range_succ] using h

/-! ## Effective addresses and operands -/

theorem readPointer_ok {s : State} {p : Byte} (h : readable s.cfg (zeroPage p) = true)
    (h' : readable s.cfg (zeroPage (p + 1)) = true) :
    ∃ w t, readPointer p s = .ok w t ∧ t.still = s.still ∧ t.pc = s.pc := by
  obtain ⟨l, t, e, hs, hp, -⟩ := busRead_ok h
  obtain ⟨g, t', e', hs', hp', -⟩ := busRead_ok (s := t) (a := zeroPage (p + 1)) (by rwa [State.cfg_of_still hs])
  exact ⟨join g l, t', by simp only [readPointer, bind_apply, e, e', pure_apply], hs'.trans hs, hp'.trans hp⟩

theorem readPointer_memByte {s : State} {p l h : Byte} (e : s.memByte (zeroPage p) = some l)
    (e' : s.memByte (zeroPage (p + 1)) = some h) : readPointer p s = .ok (join h l) s.tick.tick := by
  have e'' : s.tick.memByte (zeroPage (p + 1)) = some h := by simpa using e'
  simp only [readPointer, bind_apply, busRead_memByte e, busRead_memByte e'', pure_apply]

theorem indexed_ok (k : AccessKind) (b : Addr) (i : Byte) (s : State) :
    indexed k b i s = .ok (b + i.setWidth 16)
      (if k.alwaysIndexes || crossed b (b + i.setWidth 16) then s.tick else s) := by
  unfold indexed indexCycle
  by_cases h : (k.alwaysIndexes || crossed b (b + i.setWidth 16)) = true <;> simp [h]

theorem indexed_still (k : AccessKind) (b : Addr) (i : Byte) (s : State) :
    ∃ t, indexed k b i s = .ok (b + i.setWidth 16) t ∧ t.still = s.still ∧ t.pc = s.pc := by
  refine ⟨_, indexed_ok k b i s, ?_, ?_⟩ <;> split <;> simp

/-- An effective address is formed whenever its operand bytes and its pointer can be read, and forming it changes
nothing but clock, devices and PC, which moves past the operand (R173 to R179). -/
theorem effectiveAddress_ok {k : AccessKind} {m : Mem} {s : State} (h : addressable m s = true) :
    ∃ ea t, effectiveAddress k m s = .ok ea t ∧ t.still = s.still ∧ t.pc = s.pc + BitVec.ofNat 16 m.bytes.length := by
  simp only [addressable, Bool.and_eq_true] at h
  obtain ⟨hf, hp⟩ := h
  cases m with
  | zp z | zpx z | zpy z =>
    obtain ⟨t, e, hs, hpc⟩ := operandByte_ok z (fetchable_one hf)
    exact ⟨_, _, by simp only [effectiveAddress, bind_apply, e, internal_apply, look_apply, pure_apply]; rfl,
      by simpa using hs, by simpa [Mem.bytes] using hpc⟩
  | abs a =>
    obtain ⟨t, e, hs, hpc⟩ := operandAddr_ok a (fetchable_two hf).1 (fetchable_two hf).2
    exact ⟨a, t, e, hs, hpc⟩
  | abx b | aby b =>
    obtain ⟨t, e, hs, hpc⟩ := operandAddr_ok b (fetchable_two hf).1 (fetchable_two hf).2
    obtain ⟨u, e', hs', hpc'⟩ := indexed_still k b _ t
    exact ⟨_, u, by simp only [effectiveAddress, bind_apply, e, look_apply]; exact e', hs'.trans hs, hpc'.trans hpc⟩
  | izx z =>
    obtain ⟨t, e, hs, hpc⟩ := operandByte_ok z (fetchable_one hf)
    simp only [pointerOf, pointerReadable, Bool.and_eq_true] at hp
    obtain ⟨w, u, e', hs', hpc'⟩ := readPointer_ok (s := t.tick) (p := z + t.x)
      (by simpa [State.cfg_of_still hs, State.x_of_still hs] using hp.1)
      (by simpa [State.cfg_of_still hs, State.x_of_still hs] using hp.2)
    exact ⟨w, u, by simp only [effectiveAddress, bind_apply, e, internal_apply, look_apply, State.tick_x]; exact e', by rw [hs', State.tick_still, hs], by
      rw [hpc', State.tick_pc, hpc]; rfl⟩
  | izy z =>
    obtain ⟨t, e, hs, hpc⟩ := operandByte_ok z (fetchable_one hf)
    simp only [pointerOf, pointerReadable, Bool.and_eq_true] at hp
    obtain ⟨w, u, e', hs', hpc'⟩ := readPointer_ok (s := t) (p := z)
      (by simpa [State.cfg_of_still hs] using hp.1) (by simpa [State.cfg_of_still hs] using hp.2)
    obtain ⟨v, e'', hs'', hpc''⟩ := indexed_still k w u.y u
    exact ⟨_, v, by simp only [effectiveAddress, bind_apply, e, e', look_apply]; exact e'', by rw [hs'', hs', hs], by rw [hpc'', hpc', hpc]; rfl⟩
  | izp z =>
    obtain ⟨t, e, hs, hpc⟩ := operandByte_ok z (fetchable_one hf)
    simp only [pointerOf, pointerReadable, Bool.and_eq_true] at hp
    obtain ⟨w, u, e', hs', hpc'⟩ := readPointer_ok (s := t) (p := z)
      (by simpa [State.cfg_of_still hs] using hp.1) (by simpa [State.cfg_of_still hs] using hp.2)
    exact ⟨w, u, by simp only [effectiveAddress, bind_apply, e, e'], hs'.trans hs, by rw [hpc', hpc]; rfl⟩

theorem effectiveAddress_still {k : AccessKind} {m : Mem} {s t : State} {ea : Addr}
    (h : effectiveAddress k m s = .ok ea t) : t.still = s.still := (still_frame.effectiveAddress k m).ok h

/-- What `reaches` says. -/
theorem reaches_iff {ok : Cfg → Addr → Bool} {k : AccessKind} {m : Mem} {s : State} (h : reaches ok k m s = true) :
    ∃ ea t, effectiveAddress k m s = .ok ea t ∧ t.still = s.still ∧ t.pc = s.pc + BitVec.ofNat 16 m.bytes.length ∧
      ok s.cfg ea = true := by
  simp only [reaches, Bool.and_eq_true] at h
  obtain ⟨ha, hb⟩ := h
  obtain ⟨ea, t, e, hs, hp⟩ := effectiveAddress_ok (k := k) ha
  rw [e] at hb
  exact ⟨ea, t, e, hs, hp, hb⟩

/-- A kind R operand is read whenever its bytes, its pointer and its address can be. -/
theorem readOperand_ok {o : ReadOp} {s : State} (h : operandReads s o = true) :
    ∃ v t, readOperand o s = .ok v t ∧ t.still = s.still ∧ t.pc = s.pc + BitVec.ofNat 16 o.bytes.length := by
  cases o with
  | imm v =>
    obtain ⟨t, e, hs, hp⟩ := operandByte_ok v (fetchable_one h)
    exact ⟨v, t, e, hs, hp⟩
  | mem m =>
    obtain ⟨ea, t, e, hs, hp, hr⟩ := reaches_iff h
    obtain ⟨v, u, e', hs', hp', -⟩ := busRead_ok (s := t) (a := ea) (by rwa [State.cfg_of_still hs])
    exact ⟨v, u, by simp only [readOperand, bind_apply, e, e'], hs'.trans hs, hp'.trans hp⟩

theorem readOperand_still {o : ReadOp} {s t : State} {v : Byte} (h : readOperand o s = .ok v t) :
    t.still = s.still := (still_frame.readOperand o).ok h

/-! ## The stack -/

/-- A push succeeds wherever the stack can be written: the bus write, then SP is one less (R360). -/
theorem push_ok {s : State} (v : Byte) (h : writable s.cfg (stackAddr s.sp) = true) :
    ∃ t, busWrite (stackAddr s.sp) v s = .ok () t ∧ push v s = .ok () (t.setSp (s.sp - 1)) := by
  obtain ⟨t, e⟩ := busWrite_ok (s := s) v h
  have hsp : t.sp = s.sp := by
    have := busWrite_sp (stackAddr s.sp) v s
    rwa [e] at this
  exact ⟨t, e, by simp only [push, bind_apply, look_apply, e, update_apply, hsp]⟩

/-- A pull changes SP, the clock and the device read, and nothing else. -/
theorem pull_still {s t : State} {v : Byte} (h : pull s = .ok v t) :
    t.still = (s.setSp (s.sp + 1)).still ∧ t.pc = s.pc := by
  simp only [pull, bind_apply, look_apply, update_apply, State.setSp_sp] at h
  exact ⟨busRead_ok_still h, by simpa using busRead_ok_pc h⟩


/-- A push to RAM: the byte is there, SP is one less, and the rest is as a tick leaves it (R360). -/
theorem push_ram {s : State} (v : Byte) (h : inRam s.cfg (stackAddr s.sp) = true) :
    ∃ b, push v s = .ok () ((s.tick.setRam b).setSp (s.sp - 1)) ∧
      (Memory.wf s.ram.cells = true → Memory.wf b.cells = true) ∧
      (Memory.wf s.ram.cells = true → (s.tick.setRam b).memByte (stackAddr s.sp) = some v) ∧
      ∀ c, c ≠ stackAddr s.sp → (s.tick.setRam b).memByte c = s.memByte c := by
  obtain ⟨b, e, hw, hb, ho⟩ := busWrite_ram v h
  exact ⟨b, by simp only [push, bind_apply, look_apply, e, update_apply, State.setRam_sp, State.tick_sp], hw, hb, ho⟩

/-- What a push to RAM does, field by field (R360). -/
theorem push_spec {s : State} (v : Byte) (h : inRam s.cfg (stackAddr s.sp) = true)
    (hw : Memory.wf s.ram.cells = true) :
    ∃ t, push v s = .ok () t ∧ t.sp = s.sp - 1 ∧ t.pc = s.pc ∧ t.p = s.p ∧ t.cfg = s.cfg ∧
      t.cycles = nextCycle s.cfg s.cycles ∧ Memory.wf t.ram.cells = true ∧
      t.memByte (stackAddr s.sp) = some v ∧ (∀ c, c ≠ stackAddr s.sp → t.memByte c = s.memByte c) ∧
      t.still = ({ s with sp := s.sp - 1, ram := t.ram } : State).still := by
  obtain ⟨b, e, h1, h2, h3⟩ := push_ram v h
  refine ⟨_, e, rfl, by simp, by simp, by simp, by simp, h1 hw, h2 hw, h3, ?_⟩
  have := s.tick_still
  simp only [State.still, State.setRam, State.setSp, State.mk.injEq] at this ⊢
  grind

/-- A pull from memory: SP is one more, the byte is the one there, and a tick passes (R360). -/
theorem pull_memByte {s : State} {v : Byte} (h : s.memByte (stackAddr (s.sp + 1)) = some v) :
    pull s = .ok v (s.setSp (s.sp + 1)).tick := by
  have h' : (s.setSp (s.sp + 1)).memByte (stackAddr (s.sp + 1)) = some v := by simpa using h
  simp only [pull, bind_apply, look_apply, update_apply, State.setSp_sp, busRead_memByte h']

/-- A pull succeeds wherever the stack can be read. -/
theorem pull_ok {s : State} (h : readable s.cfg (stackAddr (s.sp + 1)) = true) :
    ∃ v t, pull s = .ok v t ∧ t.still = (s.setSp (s.sp + 1)).still ∧ t.pc = s.pc := by
  obtain ⟨v, t, e, hs, hp, -⟩ := busRead_ok (s := s.setSp (s.sp + 1)) (a := stackAddr (s.sp + 1)) (by simpa using h)
  exact ⟨v, t, by simp only [pull, bind_apply, look_apply, update_apply, State.setSp_sp, e], hs, by simpa using hp⟩

end Sys2Proof.Machine
end

