-- ==== Sys2Proof/Laws/Instructions.lean ====
section
/-! SUPPORT. What an instruction can do at all, said once: `exec_always` gives, for every instruction, the
registers, flags and mode it may write, and that everything else it does is bus accesses, clock ticks and changes of PC.
Frames and invariants are instances of it. -/

namespace Sys2Proof.Machine

variable {R : State → State → Prop}

namespace ReadFrame

variable (hR : ReadFrame R)
include hR

/-! ## The shared operations that store nothing -/

theorem load {set : State → Byte → State} (h : ∀ s v, R s ((set s v).setNZ v)) (o : ReadOp) :
    Always R (Machine.load o set) :=
  hR.bind (hR.readOperand o) fun _ => Sequencing.update fun s => h s _

theorem transfer {get : State → Byte} {set : State → Byte → State} (h : ∀ s v, R s ((set s v).setNZ v)) :
    Always R (Machine.transfer get set) :=
  hR.bind hR.internal fun _ => Sequencing.update fun s => h s _

theorem addSub {binary decimal : Byte → Byte → Bool → Sum} (h : ∀ s r, R s (State.putSum s r))
    (hf : ∀ s, R s (State.putFree s)) (o : ReadOp) : Always R (Machine.addSub o binary decimal) := by
  refine hR.bind (hR.readOperand o) fun m => hR.bind (hR.look _) fun d => Sequencing.ite
    (hR.bind hR.internal fun _ => Sequencing.update fun s => ?_) (Sequencing.update fun s => h s _)
  unfold State.putDecimal
  split
  · exact h s _
  · exact hf s

theorem logic {f : Byte → Byte → Byte} (h : ∀ s v, R s ((State.setA s v).setNZ v)) (o : ReadOp) :
    Always R (Machine.logic o f) :=
  hR.bind (hR.readOperand o) fun _ => Sequencing.update fun s => h s _

theorem compare {reg : State → Byte} (h : ∀ (s : State) m, R s (s.setP (s.p.compare (reg s) m))) (o : ReadOp) :
    Always R (Machine.compare o reg) :=
  hR.bind (hR.readOperand o) fun _ => Sequencing.update fun s => h s _

theorem stepRegister {get : State → Byte} {set : State → Byte → State} {g : Byte → Byte}
    (h : ∀ s v, R s ((set s v).setNZ v)) : Always R (Machine.stepRegister get set g) :=
  hR.bind hR.internal fun _ => Sequencing.update fun s => h s _

theorem branch (c : Bool) (d : Byte) : Always R (Machine.branch c d) :=
  hR.bind (hR.operandByte d) fun _ => Sequencing.ite
    (hR.bind hR.internal fun _ => hR.bind (hR.look _) fun _ => Sequencing.ite
      (hR.bind hR.internal fun _ => Sequencing.update fun s => hR.setPc s _) (Sequencing.update fun s => hR.setPc s _))
    (hR.pure _)

theorem branchOn (cond : State → Bool) (d : Byte) : Always R (Machine.branchOn cond d) :=
  hR.bind (hR.look _) fun _ => hR.branch _ d

theorem branchOnBit (n : Nat) (b : Bool) (z d : Byte) : Always R (Machine.branchOnBit n b z d) :=
  hR.bind (hR.operandByte z) fun _ => hR.bind (hR.busRead _) fun _ => hR.bind hR.internal fun _ => hR.branch _ d

theorem jumpThrough (p : Addr) : Always R (Machine.jumpThrough p) :=
  hR.bind (hR.busRead _) fun _ => hR.bind (hR.busRead _) fun _ => Sequencing.update fun s => hR.setPc s _

theorem jumpTo (o : JumpOp) : Always R (Machine.jumpTo o) := by
  cases o with
  | abs t => exact hR.bind (hR.operandAddr t) fun _ => Sequencing.update fun s => hR.setPc s _
  | ind p => exact hR.bind (hR.operandAddr p) fun _ => hR.bind hR.internal fun _ => hR.jumpThrough _
  | iax p =>
    exact hR.bind (hR.operandAddr p) fun _ => hR.bind hR.internal fun _ => hR.bind (hR.look _) fun _ => hR.jumpThrough _

theorem returnSubroutine (hSp : ∀ (s : State) v, R s (s.setSp v)) : Always R Machine.returnSubroutine :=
  hR.bind hR.internal fun _ => hR.bind hR.internal fun _ => hR.bind (hR.pull hSp) fun _ =>
    hR.bind (hR.pull hSp) fun _ => hR.bind hR.internal fun _ => Sequencing.update fun s => hR.setPc s _

theorem returnFromInterrupt (hSp : ∀ (s : State) v, R s (s.setSp v))
    (hP : ∀ (s : State) v, R s (s.setP (s.p.unpack v))) : Always R Machine.returnFromInterrupt :=
  hR.bind hR.internal fun _ => hR.bind hR.internal fun _ => hR.bind (hR.pull hSp) fun _ =>
    hR.bind (Sequencing.update fun s => hP s _) fun _ => hR.bind (hR.pull hSp) fun _ => hR.bind (hR.pull hSp) fun _ =>
      Sequencing.update fun s => hR.setPc s _

theorem pullInstr (hSp : ∀ (s : State) v, R s (s.setSp v)) {put : State → Byte → State} (h : ∀ s v, R s (put s v)) :
    Always R (Machine.pullInstr put) :=
  hR.bind hR.internal fun _ => hR.bind hR.internal fun _ => hR.bind (hR.pull hSp) fun _ =>
    Sequencing.update fun s => h s _

theorem flagInstr {f : Flags → Flags} (h : ∀ s : State, R s (s.setP (f s.p))) : Always R (Machine.flagInstr f) :=
  hR.bind hR.internal fun _ => Sequencing.update h

theorem enterMode (m : Mode) (h : ∀ s : State, R s (s.setMode m)) : Always R (Machine.enterMode m) :=
  hR.bind hR.internal fun _ => hR.bind hR.internal fun _ => Sequencing.update h

end ReadFrame

namespace BusFrame

variable (hR : BusFrame R)
include hR

/-! ## The shared operations that store -/

theorem jumpSubroutine (hSp : ∀ (s : State) v, R s (s.setSp v)) (t : Addr) : Always R (Machine.jumpSubroutine t) :=
  hR.bind (hR.operandAddr t) fun _ => hR.bind hR.internal fun _ => hR.bind (hR.look _) fun _ =>
    hR.bind (hR.push hSp _) fun _ => hR.bind (hR.push hSp _) fun _ => Sequencing.update fun s => hR.setPc s _

theorem softwareInterrupt (hSp : ∀ (s : State) v, R s (s.setSp v))
    (hP : ∀ s : State, R s (s.setP { s.p with i := true, d := false })) (pad : Byte) :
    Always R (Machine.softwareInterrupt pad) := by
  refine hR.bind (hR.look _) fun m => ?_
  cases m with
  | fatal => exact hR.bind (hR.look _) fun _ => hR.raise _
  | architectural => exact hR.bind (hR.operandByte pad) fun _ => hR.takeException hSp hP _ _

theorem pushInstr (hSp : ∀ (s : State) v, R s (s.setSp v)) (value : State → Byte) :
    Always R (Machine.pushInstr value) :=
  hR.bind hR.internal fun _ => hR.bind (hR.look _) fun _ => hR.push hSp _

end BusFrame

/-! ## All instructions -/

/-- A register or flag that an instruction's list contains is in it; the premise is evaluated. -/
theorem listed {α : Type} [DecidableEq α] {l : List α} {a : α} (h : l.contains a = true) : a ∈ l :=
  List.contains_iff_mem.mp h

/-- A flag computation keeps every flag that the instruction does not write. -/
def KeepsFlags (i : Instr) (p q : Flags) : Prop := ∀ f, f ∉ writtenFlags i → q.get f = p.get f

/-- What a relation must allow of an instruction: bus accesses, ticks and PC, the registers and flags it writes, the
mode for WAI and STP, and the model's counter of free values. -/
structure InstrFrame (R : State → State → Prop) (i : Instr) : Prop extends ReadFrame R where
  write : storesOf i ≠ .nothing → ∀ (a : Addr) (v : Byte) (s : State), R s (endState (dispatchWrite a v s))
  setA : Reg.a ∈ writtenRegs i → ∀ (s : State) v, R s (s.setA v)
  setX : Reg.x ∈ writtenRegs i → ∀ (s : State) v, R s (s.setX v)
  setY : Reg.y ∈ writtenRegs i → ∀ (s : State) v, R s (s.setY v)
  setSp : Reg.sp ∈ writtenRegs i → ∀ (s : State) v, R s (s.setSp v)
  setP : ∀ (s : State) q, KeepsFlags i s.p q → R s (s.setP q)
  setMode : i = .wai ∨ i = .stp → ∀ (s : State) m, R s (s.setMode m)
  setDraws : ∀ (s : State) n, R s (s.setDraws n)

/-- An instruction that stores does so over the bus. -/
theorem InstrFrame.bus {i : Instr} (h : InstrFrame R i) (hs : storesOf i ≠ .nothing) : BusFrame R :=
  { toReadFrame := h.toReadFrame, write := h.write hs }

theorem keeps_setNZ {i : Instr} (hn : FlagName.n ∈ writtenFlags i) (hz : FlagName.z ∈ writtenFlags i) (p : Flags) (v : Byte) :
    KeepsFlags i p (p.setNZ v) := by
  intro f hf
  cases f <;> first | rfl | exact absurd hn hf | exact absurd hz hf

theorem InstrFrame.putA {i : Instr} (h : InstrFrame R i) (ha : Reg.a ∈ writtenRegs i) (hn : FlagName.n ∈ writtenFlags i)
    (hz : FlagName.z ∈ writtenFlags i) (s : State) (v : Byte) : R s ((s.setA v).setNZ v) :=
  h.trans _ _ _ (h.setA ha s v) (h.setP _ _ (keeps_setNZ hn hz _ v))

theorem InstrFrame.putX {i : Instr} (h : InstrFrame R i) (hx : Reg.x ∈ writtenRegs i) (hn : FlagName.n ∈ writtenFlags i)
    (hz : FlagName.z ∈ writtenFlags i) (s : State) (v : Byte) : R s ((s.setX v).setNZ v) :=
  h.trans _ _ _ (h.setX hx s v) (h.setP _ _ (keeps_setNZ hn hz _ v))

theorem InstrFrame.putY {i : Instr} (h : InstrFrame R i) (hy : Reg.y ∈ writtenRegs i) (hn : FlagName.n ∈ writtenFlags i)
    (hz : FlagName.z ∈ writtenFlags i) (s : State) (v : Byte) : R s ((s.setY v).setNZ v) :=
  h.trans _ _ _ (h.setY hy s v) (h.setP _ _ (keeps_setNZ hn hz _ v))

/-- ADC and SBC write A, N, V, Z, C and, on an open result, the counter of free values. -/
theorem InstrFrame.addSub {i : Instr} (h : InstrFrame R i) (ha : Reg.a ∈ writtenRegs i)
    (hf : writtenFlags i = [.n, .v, .z, .c]) (o : ReadOp) (binary decimal : Byte → Byte → Bool → Sum) :
    Always R (Machine.addSub o binary decimal) := by
  refine h.toReadFrame.addSub (fun s r => h.trans _ _ _ (h.setA ha s r.r) (h.setP _ _ ?_))
    (fun s => h.trans _ _ _ (h.trans _ _ _ (h.setA ha s _) (h.setP _ _ ?_)) (h.setDraws _ _)) o <;>
  · intro f hn
    rw [hf] at hn
    cases f <;> first | rfl | simp at hn

theorem InstrFrame.modify {i : Instr} (h : InstrFrame R i) {f : Modification} (hP : ∀ (s : State) v, KeepsFlags i s.p (f s v).1)
    (k : AccessKind) (o : RmwOp) (hA : o = .acc → Reg.a ∈ writtenRegs i) (hs : o ≠ .acc → storesOf i ≠ .nothing) :
    Always R (Machine.modifyOperand k o f) := by
  cases o with
  | acc => exact h.bind h.internal fun _ => h.bind (h.look _) fun _ =>
      h.bind (BusFrame.applyModification f _ fun s => h.setP _ _ (hP s _)) fun _ => Sequencing.update fun s => h.setA (hA rfl) s _
  | mem m => exact (h.bus (hs (by simp))).modifyMem k m f fun s v => h.setP _ _ (hP s v)

theorem InstrFrame.modifyMem {i : Instr} (h : InstrFrame R i) {f : Modification}
    (hP : ∀ (s : State) v, KeepsFlags i s.p (f s v).1) (hs : storesOf i ≠ .nothing) (k : AccessKind) (m : Mem) :
    Always R (Machine.modifyMem k m f) :=
  (h.bus hs).modifyMem k m f fun s v => h.setP _ _ (hP s v)

/-- A kind M instruction stores unless it works on A. -/
theorem rmw_stores (k : AccessKind) (o : RmwOp) (h : o ≠ .acc) : rmwStores k o ≠ .nothing := by
  cases o with
  | acc => exact absurd rfl h
  | mem m => exact Stores.noConfusion

theorem KeepsFlags.refl (i : Instr) (p : Flags) : KeepsFlags i p p := fun _ _ => rfl

/-- Every instruction is pseudocode that keeps whatever an `InstrFrame` of it keeps. -/
theorem exec_always (i : Instr) (h : InstrFrame R i) : ∃ x : Exec Unit, (∀ s, exec i s = run x s) ∧ Always R x := by
  have hB := h.toReadFrame
  cases i with
  | lda o => exact ⟨_, fun _ => rfl, hB.load (h.putA (listed rfl) (listed rfl) (listed rfl)) o⟩
  | ldx o => exact ⟨_, fun _ => rfl, hB.load (h.putX (listed rfl) (listed rfl) (listed rfl)) o⟩
  | ldy o => exact ⟨_, fun _ => rfl, hB.load (h.putY (listed rfl) (listed rfl) (listed rfl)) o⟩
  | sta o | stx o | sty o | stz o => exact ⟨_, fun _ => rfl, (h.bus Stores.noConfusion).writeOperand o _⟩
  | tax | tsx => exact ⟨_, fun _ => rfl, hB.transfer (h.putX (listed rfl) (listed rfl) (listed rfl))⟩
  | tay => exact ⟨_, fun _ => rfl, hB.transfer (h.putY (listed rfl) (listed rfl) (listed rfl))⟩
  | txa | tya => exact ⟨_, fun _ => rfl, hB.transfer (h.putA (listed rfl) (listed rfl) (listed rfl))⟩
  | txs => exact ⟨_, fun _ => rfl, hB.bind hB.internal fun _ => Sequencing.update fun s => h.setSp (listed rfl) s s.x⟩
  | adc o | sbc o => exact ⟨_, fun _ => rfl, h.addSub (listed rfl) rfl o _ _⟩
  | and o | ora o | eor o => exact ⟨_, fun _ => rfl, hB.logic (h.putA (listed rfl) (listed rfl) (listed rfl)) o⟩
  | cmp o | cpx o | cpy o =>
    refine ⟨_, fun _ => rfl, hB.compare (fun s m => h.setP _ _ fun f hf => ?_) o⟩
    cases f <;> first | rfl | exact absurd (listed rfl) hf
  | bit o =>
    refine ⟨_, fun _ => rfl, hB.bind (hB.readOperand o) fun m => Sequencing.update fun s => h.setP _ _ fun f hf => ?_⟩
    cases o <;> cases f <;> first | rfl | exact absurd (listed rfl) hf
  | inc o | dec o =>
    refine ⟨_, fun _ => rfl, h.modify (fun s v => keeps_setNZ (listed rfl) (listed rfl) _ _) _ o (fun e => ?_) (rmw_stores _ _)⟩
    subst e; exact listed rfl
  | inx => exact ⟨_, fun _ => rfl, hB.stepRegister (get := State.x) (g := fun v => v + 1) (h.putX (listed rfl) (listed rfl) (listed rfl))⟩
  | dex => exact ⟨_, fun _ => rfl, hB.stepRegister (get := State.x) (g := fun v => v - 1) (h.putX (listed rfl) (listed rfl) (listed rfl))⟩
  | iny => exact ⟨_, fun _ => rfl, hB.stepRegister (get := State.y) (g := fun v => v + 1) (h.putY (listed rfl) (listed rfl) (listed rfl))⟩
  | dey => exact ⟨_, fun _ => rfl, hB.stepRegister (get := State.y) (g := fun v => v - 1) (h.putY (listed rfl) (listed rfl) (listed rfl))⟩
  | asl o | lsr o | rol o | ror o =>
    refine ⟨_, fun _ => rfl, h.modify (fun s v f hf => ?_) _ o (fun e => ?_) (rmw_stores _ _)⟩
    · cases f <;> first | rfl | exact absurd (listed rfl) hf
    · subst e; exact listed rfl
  | tsb o | trb o =>
    refine ⟨_, fun _ => rfl, h.modifyMem (fun s v f hf => ?_) Stores.noConfusion _ o⟩
    cases f <;> first | rfl | exact absurd (listed rfl) hf
  | rmb0 z | rmb1 z | rmb2 z | rmb3 z | rmb4 z | rmb5 z | rmb6 z | rmb7 z =>
    exact ⟨_, fun _ => rfl, h.modifyMem (fun s _ => KeepsFlags.refl _ s.p) Stores.noConfusion _ _⟩
  | smb0 z | smb1 z | smb2 z | smb3 z | smb4 z | smb5 z | smb6 z | smb7 z =>
    exact ⟨_, fun _ => rfl, h.modifyMem (fun s _ => KeepsFlags.refl _ s.p) Stores.noConfusion _ _⟩
  | bcc d | bcs d | beq d | bne d | bmi d | bpl d | bvc d | bvs d | bra d => exact ⟨_, fun _ => rfl, hB.branchOn _ d⟩
  | bbr0 z d | bbr1 z d | bbr2 z d | bbr3 z d | bbr4 z d | bbr5 z d | bbr6 z d | bbr7 z d =>
    exact ⟨_, fun _ => rfl, hB.branchOnBit _ _ z d⟩
  | bbs0 z d | bbs1 z d | bbs2 z d | bbs3 z d | bbs4 z d | bbs5 z d | bbs6 z d | bbs7 z d =>
    exact ⟨_, fun _ => rfl, hB.branchOnBit _ _ z d⟩
  | jmp o => exact ⟨_, fun _ => rfl, hB.jumpTo o⟩
  | jsr t => exact ⟨_, fun _ => rfl, (h.bus Stores.noConfusion).jumpSubroutine (h.setSp (listed rfl)) t⟩
  | rts => exact ⟨_, fun _ => rfl, hB.returnSubroutine (h.setSp (listed rfl))⟩
  | rti =>
    refine ⟨_, fun _ => rfl, hB.returnFromInterrupt (h.setSp (listed rfl)) fun s v => h.setP _ _ fun f hf => ?_⟩
    cases f <;> first | rfl | exact absurd (listed rfl) hf
  | brk pad =>
    refine ⟨_, fun _ => rfl, (h.bus Stores.noConfusion).softwareInterrupt (h.setSp (listed rfl)) (fun s => h.setP _ _ fun f hf => ?_) pad⟩
    cases f <;> first | rfl | exact absurd (listed rfl) hf
  | pha | php | phx | phy => exact ⟨_, fun _ => rfl, (h.bus Stores.noConfusion).pushInstr (h.setSp (listed rfl)) _⟩
  | pla => exact ⟨_, fun _ => rfl, hB.pullInstr (h.setSp (listed rfl)) (h.putA (listed rfl) (listed rfl) (listed rfl))⟩
  | plx => exact ⟨_, fun _ => rfl, hB.pullInstr (h.setSp (listed rfl)) (h.putX (listed rfl) (listed rfl) (listed rfl))⟩
  | ply => exact ⟨_, fun _ => rfl, hB.pullInstr (h.setSp (listed rfl)) (h.putY (listed rfl) (listed rfl) (listed rfl))⟩
  | plp =>
    refine ⟨_, fun _ => rfl, hB.pullInstr (h.setSp (listed rfl)) fun s v => h.setP _ _ fun f hf => ?_⟩
    cases f <;> first | rfl | exact absurd (listed rfl) hf
  | clc =>
    refine ⟨_, fun _ => rfl, hB.flagInstr (f := fun p => { p with c := false }) fun s => h.setP _ _ fun f hf => ?_⟩
    cases f <;> first | rfl | exact absurd (listed rfl) hf
  | sec =>
    refine ⟨_, fun _ => rfl, hB.flagInstr (f := fun p => { p with c := true }) fun s => h.setP _ _ fun f hf => ?_⟩
    cases f <;> first | rfl | exact absurd (listed rfl) hf
  | cli =>
    refine ⟨_, fun _ => rfl, hB.flagInstr (f := fun p => { p with i := false }) fun s => h.setP _ _ fun f hf => ?_⟩
    cases f <;> first | rfl | exact absurd (listed rfl) hf
  | sei =>
    refine ⟨_, fun _ => rfl, hB.flagInstr (f := fun p => { p with i := true }) fun s => h.setP _ _ fun f hf => ?_⟩
    cases f <;> first | rfl | exact absurd (listed rfl) hf
  | cld =>
    refine ⟨_, fun _ => rfl, hB.flagInstr (f := fun p => { p with d := false }) fun s => h.setP _ _ fun f hf => ?_⟩
    cases f <;> first | rfl | exact absurd (listed rfl) hf
  | sed =>
    refine ⟨_, fun _ => rfl, hB.flagInstr (f := fun p => { p with d := true }) fun s => h.setP _ _ fun f hf => ?_⟩
    cases f <;> first | rfl | exact absurd (listed rfl) hf
  | clv =>
    refine ⟨_, fun _ => rfl, hB.flagInstr (f := fun p => { p with v := false }) fun s => h.setP _ _ fun f hf => ?_⟩
    cases f <;> first | rfl | exact absurd (listed rfl) hf
  | nop => exact ⟨_, fun _ => rfl, hB.internal⟩
  | wai => exact ⟨_, fun _ => rfl, hB.enterMode _ fun s => h.setMode (.inl rfl) s _⟩
  | stp => exact ⟨_, fun _ => rfl, hB.enterMode _ fun s => h.setMode (.inr rfl) s _⟩
  | illegal op => exact ⟨_, fun _ => rfl, hB.bind (hB.look _) fun _ => hB.raise _⟩

/-- An instruction's next state is related to its state, up to a latched fault. -/
theorem exec_frame {i : Instr} (h : InstrFrame R i) (hl : ∀ (s : State) f, R s (s.latch f)) {s t : State}
    (e : exec i s = .next t) : R s t := by
  obtain ⟨x, hx, ha⟩ := exec_always i h
  rw [hx] at e
  rcases ha.run e with h' | ⟨f, u, h', rfl⟩
  · exact h'
  · exact h.trans _ _ _ h' (hl u f)

/-- Every instruction answers a next state (R402: a fault is latched in it). -/
theorem exec_next (i : Instr) (s : State) : ∃ t, exec i s = .next t := by
  have hT : InstrFrame (fun _ _ => True) i := by
    refine { refl := ?_, trans := ?_, tick := ?_, read := ?_, setPc := ?_, write := ?_, setA := ?_, setX := ?_, setY := ?_, setSp := ?_, setP := ?_, setMode := ?_, setDraws := ?_ } <;> intros <;> trivial
  obtain ⟨x, hx, -⟩ := exec_always i hT
  rw [hx]
  exact run_next x s

end Sys2Proof.Machine
end

