-- ==== Sys2Proof/Laws/Step.lean ====
section
/-! SUPPORT. What a step can do, said once: `step_frame` gives a relation over a whole step, interrupt entry included,
from what the bus, the entry and the one instruction do. -/

namespace Sys2Proof.Machine

variable {R : State → State → Prop}

/-- In RUN mode with no fault latched a step runs an instruction. -/
theorem step_run {s : State} (hf : s.fault = none) (hm : s.mode = .run) : step s = runInstruction s := by
  simp only [step, hf, hm]

/-- What a relation must allow of a step besides the instruction: bus accesses, ticks and PC, the pushes and the status
of an interrupt entry, the two latches it clears, the wake from WAIT, and the fault latch. -/
structure StepFrame (R : State → State → Prop) : Prop extends BusFrame R where
  setSp : ∀ (s : State) v, R s (s.setSp v)
  enterP : ∀ s : State, R s (s.setP { s.p with i := true, d := false })
  clearNmi : ∀ s : State, R s (s.setPendingNmi false)
  clearIrq : ∀ s : State, R s (s.setPendingIrq false)
  wake : ∀ s : State, R s s.wake
  latch : ∀ (s : State) f, R s (s.latch f)

namespace StepFrame

variable (h : StepFrame R)
include h

theorem enterInterrupt (v : Addr) : Always R (Machine.enterInterrupt v) :=
  h.bind h.internal fun _ => h.bind h.internal fun _ => h.takeException h.setSp h.enterP _ v

theorem pollInterrupts : Always R Machine.pollInterrupts := by
  refine h.bind (h.look _) fun n => h.bind (h.look _) fun q => ?_
  cases n
  · cases q
    · exact h.pure _
    · exact h.bind (Sequencing.update h.clearIrq) fun _ => h.bind (h.enterInterrupt _) fun _ => h.pure _
  · exact h.bind (Sequencing.update h.clearNmi) fun _ => h.bind (h.enterInterrupt _) fun _ => h.pure _

theorem pollAndFetch : Always R Machine.pollAndFetch :=
  h.bind h.pollInterrupts fun _ => h.bind h.fetch fun _ => h.pure _

theorem runInstruction (hx : ∀ op (s t : State), exec (instrAt op s) s = .next t → R s t) {s t : State}
    (e : Machine.runInstruction s = .next t) : R s t := by
  unfold Machine.runInstruction at e
  have ha := h.pollAndFetch s
  cases hp : Machine.pollAndFetch s with
  | error f u =>
    rw [hp] at e ha
    cases e
    exact h.trans _ _ _ ha (h.latch _ _)
  | ok q u =>
    rw [hp] at e ha
    exact h.trans _ _ _ ha (hx _ _ _ e)

/-- A step leads to a related state if its instruction does. -/
theorem step_frame (hx : ∀ op (s t : State), exec (instrAt op s) s = .next t → R s t) {s t : State}
    (e : step s = .next t) : R s t := by
  unfold step at e
  split at e
  · cases e
  · cases e
    exact h.refl _
  · split at e
    · exact h.trans _ _ _ (h.wake s) (h.runInstruction hx e)
    · cases e
      exact h.tick s
  · exact h.runInstruction hx e

end StepFrame

end Sys2Proof.Machine
end

