-- ==== Sys2Proof/Tests/Slice0.lean ====
section
/-! SUPPORT. The model's own tests: ill-formed terms, written words, one step on a small machine (expected results from
`spec/95_test_vectors.md`, named by vector, or worked out from the rule cited), and a witness for the hypotheses of every
statement. -/

namespace Sys2Proof.Tests

set_option Elab.async false

open Sys2Proof.Machine

/-! ## WellFormed refuses -/

/-- A format that the instruction's rule does not list (R203, R253, R251). -/
theorem test_wellFormed_format : (Instr.stx (.zpx 0x10)).wellFormed .w65c02s = false ∧
    (Instr.dec (.mem (.izy 0x10))).wellFormed .w65c02s = false ∧ (Instr.bit (.mem (.izp 0x10))).wellFormed .w65c02s = false ∧
    (Instr.dec .acc).wellFormed .w65c02s = true := by decide

/-- A level that does not have the instruction (R147). -/
theorem test_wellFormed_level : Instr.wai.wellFormed .c02BitOps = false ∧ (Instr.rmb0 0x10).wellFormed .c02Base = false ∧
    (Instr.bbs7 0x10 0x20).wellFormed .c02Base = false ∧ (Instr.rmb0 0x10).wellFormed .c02BitOps = true := by decide

/-- An `illegal` term with a legal byte (R146, R147). -/
theorem test_wellFormed_illegal : (Instr.illegal 0xEA).wellFormed .w65c02s = false ∧
    (Instr.illegal 0xCB).wellFormed .w65c02s = false ∧ (Instr.illegal 0xCB).wellFormed .c02BitOps = true ∧
    (Instr.illegal 0x02).wellFormed .w65c02s = true := by decide

/-! ## Written words

Every row of the opcode matrix (R145), its word written out with operand bytes 0x34 0x12 in the order of R143, and the
instruction it stands for. -/

/-- A word and what it decodes to, with nothing left over. -/
def decodes (w : List Byte) (i : Instr) : Bool :=
  match decode .w65c02s w with
  | .ok (j, []) => decide (j = i) && decide (encode i = w)
  | _ => false

theorem test_decode_loads_1 :
    (decodes [0xA1, 0x34] (.lda (.mem (.izx 0x34))) && decodes [0xA5, 0x34] (.lda (.mem (.zp 0x34))) &&
     decodes [0xA9, 0x34] (.lda (.imm 0x34)) && decodes [0xAD, 0x34, 0x12] (.lda (.mem (.abs 0x1234))) &&
     decodes [0xB1, 0x34] (.lda (.mem (.izy 0x34))) && decodes [0xB2, 0x34] (.lda (.mem (.izp 0x34))) &&
     decodes [0xB5, 0x34] (.lda (.mem (.zpx 0x34))) && decodes [0xB9, 0x34, 0x12] (.lda (.mem (.aby 0x1234))) &&
     decodes [0xBD, 0x34, 0x12] (.lda (.mem (.abx 0x1234))) && decodes [0xA2, 0x34] (.ldx (.imm 0x34)) &&
     decodes [0xA6, 0x34] (.ldx (.mem (.zp 0x34))) && decodes [0xAE, 0x34, 0x12] (.ldx (.mem (.abs 0x1234))) &&
     decodes [0xB6, 0x34] (.ldx (.mem (.zpy 0x34))) && decodes [0xBE, 0x34, 0x12] (.ldx (.mem (.aby 0x1234)))) = true := by decide +kernel

theorem test_decode_loads_2 :
    (decodes [0xA0, 0x34] (.ldy (.imm 0x34)) && decodes [0xA4, 0x34] (.ldy (.mem (.zp 0x34))) &&
     decodes [0xAC, 0x34, 0x12] (.ldy (.mem (.abs 0x1234))) && decodes [0xB4, 0x34] (.ldy (.mem (.zpx 0x34))) &&
     decodes [0xBC, 0x34, 0x12] (.ldy (.mem (.abx 0x1234)))) = true := by decide +kernel

theorem test_decode_stores_and_transfers_1 :
    (decodes [0x81, 0x34] (.sta (.izx 0x34)) && decodes [0x85, 0x34] (.sta (.zp 0x34)) &&
     decodes [0x8D, 0x34, 0x12] (.sta (.abs 0x1234)) && decodes [0x91, 0x34] (.sta (.izy 0x34)) &&
     decodes [0x92, 0x34] (.sta (.izp 0x34)) && decodes [0x95, 0x34] (.sta (.zpx 0x34)) &&
     decodes [0x99, 0x34, 0x12] (.sta (.aby 0x1234)) && decodes [0x9D, 0x34, 0x12] (.sta (.abx 0x1234)) &&
     decodes [0x86, 0x34] (.stx (.zp 0x34)) && decodes [0x8E, 0x34, 0x12] (.stx (.abs 0x1234)) &&
     decodes [0x96, 0x34] (.stx (.zpy 0x34)) && decodes [0x84, 0x34] (.sty (.zp 0x34)) &&
     decodes [0x8C, 0x34, 0x12] (.sty (.abs 0x1234)) && decodes [0x94, 0x34] (.sty (.zpx 0x34))) = true := by decide +kernel

theorem test_decode_stores_and_transfers_2 :
    (decodes [0x64, 0x34] (.stz (.zp 0x34)) && decodes [0x74, 0x34] (.stz (.zpx 0x34)) &&
     decodes [0x9C, 0x34, 0x12] (.stz (.abs 0x1234)) && decodes [0x9E, 0x34, 0x12] (.stz (.abx 0x1234)) &&
     decodes [0xAA] (.tax) && decodes [0xA8] (.tay) &&
     decodes [0x8A] (.txa) && decodes [0x98] (.tya) &&
     decodes [0xBA] (.tsx) && decodes [0x9A] (.txs)) = true := by decide +kernel

theorem test_decode_adc_and_sbc_1 :
    (decodes [0x61, 0x34] (.adc (.mem (.izx 0x34))) && decodes [0x65, 0x34] (.adc (.mem (.zp 0x34))) &&
     decodes [0x69, 0x34] (.adc (.imm 0x34)) && decodes [0x6D, 0x34, 0x12] (.adc (.mem (.abs 0x1234))) &&
     decodes [0x71, 0x34] (.adc (.mem (.izy 0x34))) && decodes [0x72, 0x34] (.adc (.mem (.izp 0x34))) &&
     decodes [0x75, 0x34] (.adc (.mem (.zpx 0x34))) && decodes [0x79, 0x34, 0x12] (.adc (.mem (.aby 0x1234))) &&
     decodes [0x7D, 0x34, 0x12] (.adc (.mem (.abx 0x1234))) && decodes [0xE1, 0x34] (.sbc (.mem (.izx 0x34))) &&
     decodes [0xE5, 0x34] (.sbc (.mem (.zp 0x34))) && decodes [0xE9, 0x34] (.sbc (.imm 0x34)) &&
     decodes [0xED, 0x34, 0x12] (.sbc (.mem (.abs 0x1234))) && decodes [0xF1, 0x34] (.sbc (.mem (.izy 0x34)))) = true := by decide +kernel

theorem test_decode_adc_and_sbc_2 :
    (decodes [0xF2, 0x34] (.sbc (.mem (.izp 0x34))) && decodes [0xF5, 0x34] (.sbc (.mem (.zpx 0x34))) &&
     decodes [0xF9, 0x34, 0x12] (.sbc (.mem (.aby 0x1234))) && decodes [0xFD, 0x34, 0x12] (.sbc (.mem (.abx 0x1234)))) = true := by decide +kernel

theorem test_decode_logic_1 :
    (decodes [0x21, 0x34] (.and (.mem (.izx 0x34))) && decodes [0x25, 0x34] (.and (.mem (.zp 0x34))) &&
     decodes [0x29, 0x34] (.and (.imm 0x34)) && decodes [0x2D, 0x34, 0x12] (.and (.mem (.abs 0x1234))) &&
     decodes [0x31, 0x34] (.and (.mem (.izy 0x34))) && decodes [0x32, 0x34] (.and (.mem (.izp 0x34))) &&
     decodes [0x35, 0x34] (.and (.mem (.zpx 0x34))) && decodes [0x39, 0x34, 0x12] (.and (.mem (.aby 0x1234))) &&
     decodes [0x3D, 0x34, 0x12] (.and (.mem (.abx 0x1234))) && decodes [0x01, 0x34] (.ora (.mem (.izx 0x34))) &&
     decodes [0x05, 0x34] (.ora (.mem (.zp 0x34))) && decodes [0x09, 0x34] (.ora (.imm 0x34)) &&
     decodes [0x0D, 0x34, 0x12] (.ora (.mem (.abs 0x1234))) && decodes [0x11, 0x34] (.ora (.mem (.izy 0x34)))) = true := by decide +kernel

theorem test_decode_logic_2 :
    (decodes [0x12, 0x34] (.ora (.mem (.izp 0x34))) && decodes [0x15, 0x34] (.ora (.mem (.zpx 0x34))) &&
     decodes [0x19, 0x34, 0x12] (.ora (.mem (.aby 0x1234))) && decodes [0x1D, 0x34, 0x12] (.ora (.mem (.abx 0x1234))) &&
     decodes [0x41, 0x34] (.eor (.mem (.izx 0x34))) && decodes [0x45, 0x34] (.eor (.mem (.zp 0x34))) &&
     decodes [0x49, 0x34] (.eor (.imm 0x34)) && decodes [0x4D, 0x34, 0x12] (.eor (.mem (.abs 0x1234))) &&
     decodes [0x51, 0x34] (.eor (.mem (.izy 0x34))) && decodes [0x52, 0x34] (.eor (.mem (.izp 0x34))) &&
     decodes [0x55, 0x34] (.eor (.mem (.zpx 0x34))) && decodes [0x59, 0x34, 0x12] (.eor (.mem (.aby 0x1234))) &&
     decodes [0x5D, 0x34, 0x12] (.eor (.mem (.abx 0x1234)))) = true := by decide +kernel

theorem test_decode_compares_and_bit_1 :
    (decodes [0xC1, 0x34] (.cmp (.mem (.izx 0x34))) && decodes [0xC5, 0x34] (.cmp (.mem (.zp 0x34))) &&
     decodes [0xC9, 0x34] (.cmp (.imm 0x34)) && decodes [0xCD, 0x34, 0x12] (.cmp (.mem (.abs 0x1234))) &&
     decodes [0xD1, 0x34] (.cmp (.mem (.izy 0x34))) && decodes [0xD2, 0x34] (.cmp (.mem (.izp 0x34))) &&
     decodes [0xD5, 0x34] (.cmp (.mem (.zpx 0x34))) && decodes [0xD9, 0x34, 0x12] (.cmp (.mem (.aby 0x1234))) &&
     decodes [0xDD, 0x34, 0x12] (.cmp (.mem (.abx 0x1234))) && decodes [0xE0, 0x34] (.cpx (.imm 0x34)) &&
     decodes [0xE4, 0x34] (.cpx (.mem (.zp 0x34))) && decodes [0xEC, 0x34, 0x12] (.cpx (.mem (.abs 0x1234))) &&
     decodes [0xC0, 0x34] (.cpy (.imm 0x34)) && decodes [0xC4, 0x34] (.cpy (.mem (.zp 0x34)))) = true := by decide +kernel

theorem test_decode_compares_and_bit_2 :
    (decodes [0xCC, 0x34, 0x12] (.cpy (.mem (.abs 0x1234))) && decodes [0x24, 0x34] (.bit (.mem (.zp 0x34))) &&
     decodes [0x2C, 0x34, 0x12] (.bit (.mem (.abs 0x1234))) && decodes [0x34, 0x34] (.bit (.mem (.zpx 0x34))) &&
     decodes [0x3C, 0x34, 0x12] (.bit (.mem (.abx 0x1234))) && decodes [0x89, 0x34] (.bit (.imm 0x34))) = true := by decide +kernel

theorem test_decode_counts :
    (decodes [0x1A] (.inc .acc) && decodes [0xE6, 0x34] (.inc (.mem (.zp 0x34))) &&
     decodes [0xEE, 0x34, 0x12] (.inc (.mem (.abs 0x1234))) && decodes [0xF6, 0x34] (.inc (.mem (.zpx 0x34))) &&
     decodes [0xFE, 0x34, 0x12] (.inc (.mem (.abx 0x1234))) && decodes [0x3A] (.dec .acc) &&
     decodes [0xC6, 0x34] (.dec (.mem (.zp 0x34))) && decodes [0xCE, 0x34, 0x12] (.dec (.mem (.abs 0x1234))) &&
     decodes [0xD6, 0x34] (.dec (.mem (.zpx 0x34))) && decodes [0xDE, 0x34, 0x12] (.dec (.mem (.abx 0x1234))) &&
     decodes [0xE8] (.inx) && decodes [0xC8] (.iny) &&
     decodes [0xCA] (.dex) && decodes [0x88] (.dey)) = true := by decide +kernel

theorem test_decode_shifts_1 :
    (decodes [0x06, 0x34] (.asl (.mem (.zp 0x34))) && decodes [0x0A] (.asl .acc) &&
     decodes [0x0E, 0x34, 0x12] (.asl (.mem (.abs 0x1234))) && decodes [0x16, 0x34] (.asl (.mem (.zpx 0x34))) &&
     decodes [0x1E, 0x34, 0x12] (.asl (.mem (.abx 0x1234))) && decodes [0x46, 0x34] (.lsr (.mem (.zp 0x34))) &&
     decodes [0x4A] (.lsr .acc) && decodes [0x4E, 0x34, 0x12] (.lsr (.mem (.abs 0x1234))) &&
     decodes [0x56, 0x34] (.lsr (.mem (.zpx 0x34))) && decodes [0x5E, 0x34, 0x12] (.lsr (.mem (.abx 0x1234))) &&
     decodes [0x26, 0x34] (.rol (.mem (.zp 0x34))) && decodes [0x2A] (.rol .acc) &&
     decodes [0x2E, 0x34, 0x12] (.rol (.mem (.abs 0x1234))) && decodes [0x36, 0x34] (.rol (.mem (.zpx 0x34)))) = true := by decide +kernel

theorem test_decode_shifts_2 :
    (decodes [0x3E, 0x34, 0x12] (.rol (.mem (.abx 0x1234))) && decodes [0x66, 0x34] (.ror (.mem (.zp 0x34))) &&
     decodes [0x6A] (.ror .acc) && decodes [0x6E, 0x34, 0x12] (.ror (.mem (.abs 0x1234))) &&
     decodes [0x76, 0x34] (.ror (.mem (.zpx 0x34))) && decodes [0x7E, 0x34, 0x12] (.ror (.mem (.abx 0x1234)))) = true := by decide +kernel

theorem test_decode_bit_operations_1 :
    (decodes [0x04, 0x34] (.tsb (.zp 0x34)) && decodes [0x0C, 0x34, 0x12] (.tsb (.abs 0x1234)) &&
     decodes [0x14, 0x34] (.trb (.zp 0x34)) && decodes [0x1C, 0x34, 0x12] (.trb (.abs 0x1234)) &&
     decodes [0x07, 0x34] (.rmb0 0x34) && decodes [0x17, 0x34] (.rmb1 0x34) &&
     decodes [0x27, 0x34] (.rmb2 0x34) && decodes [0x37, 0x34] (.rmb3 0x34) &&
     decodes [0x47, 0x34] (.rmb4 0x34) && decodes [0x57, 0x34] (.rmb5 0x34) &&
     decodes [0x67, 0x34] (.rmb6 0x34) && decodes [0x77, 0x34] (.rmb7 0x34) &&
     decodes [0x87, 0x34] (.smb0 0x34) && decodes [0x97, 0x34] (.smb1 0x34)) = true := by decide +kernel

theorem test_decode_bit_operations_2 :
    (decodes [0xA7, 0x34] (.smb2 0x34) && decodes [0xB7, 0x34] (.smb3 0x34) &&
     decodes [0xC7, 0x34] (.smb4 0x34) && decodes [0xD7, 0x34] (.smb5 0x34) &&
     decodes [0xE7, 0x34] (.smb6 0x34) && decodes [0xF7, 0x34] (.smb7 0x34)) = true := by decide +kernel

theorem test_decode_branches :
    (decodes [0x90, 0x34] (.bcc 0x34) && decodes [0xB0, 0x34] (.bcs 0x34) &&
     decodes [0xF0, 0x34] (.beq 0x34) && decodes [0xD0, 0x34] (.bne 0x34) &&
     decodes [0x30, 0x34] (.bmi 0x34) && decodes [0x10, 0x34] (.bpl 0x34) &&
     decodes [0x50, 0x34] (.bvc 0x34) && decodes [0x70, 0x34] (.bvs 0x34) &&
     decodes [0x80, 0x34] (.bra 0x34)) = true := by decide +kernel

theorem test_decode_bit_branches_1 :
    (decodes [0x0F, 0x34, 0x12] (.bbr0 0x34 0x12) && decodes [0x1F, 0x34, 0x12] (.bbr1 0x34 0x12) &&
     decodes [0x2F, 0x34, 0x12] (.bbr2 0x34 0x12) && decodes [0x3F, 0x34, 0x12] (.bbr3 0x34 0x12) &&
     decodes [0x4F, 0x34, 0x12] (.bbr4 0x34 0x12) && decodes [0x5F, 0x34, 0x12] (.bbr5 0x34 0x12) &&
     decodes [0x6F, 0x34, 0x12] (.bbr6 0x34 0x12) && decodes [0x7F, 0x34, 0x12] (.bbr7 0x34 0x12) &&
     decodes [0x8F, 0x34, 0x12] (.bbs0 0x34 0x12) && decodes [0x9F, 0x34, 0x12] (.bbs1 0x34 0x12) &&
     decodes [0xAF, 0x34, 0x12] (.bbs2 0x34 0x12) && decodes [0xBF, 0x34, 0x12] (.bbs3 0x34 0x12) &&
     decodes [0xCF, 0x34, 0x12] (.bbs4 0x34 0x12) && decodes [0xDF, 0x34, 0x12] (.bbs5 0x34 0x12)) = true := by decide +kernel

theorem test_decode_bit_branches_2 :
    (decodes [0xEF, 0x34, 0x12] (.bbs6 0x34 0x12) && decodes [0xFF, 0x34, 0x12] (.bbs7 0x34 0x12)) = true := by decide +kernel

theorem test_decode_jumps :
    (decodes [0x4C, 0x34, 0x12] (.jmp (.abs 0x1234)) && decodes [0x6C, 0x34, 0x12] (.jmp (.ind 0x1234)) &&
     decodes [0x7C, 0x34, 0x12] (.jmp (.iax 0x1234)) && decodes [0x20, 0x34, 0x12] (.jsr 0x1234) &&
     decodes [0x60] (.rts) && decodes [0x40] (.rti) &&
     decodes [0x00, 0x34] (.brk 0x34)) = true := by decide +kernel

theorem test_decode_stack_and_flags_1 :
    (decodes [0x48] (.pha) && decodes [0x08] (.php) &&
     decodes [0xDA] (.phx) && decodes [0x5A] (.phy) &&
     decodes [0x68] (.pla) && decodes [0x28] (.plp) &&
     decodes [0xFA] (.plx) && decodes [0x7A] (.ply) &&
     decodes [0x18] (.clc) && decodes [0x38] (.sec) &&
     decodes [0x58] (.cli) && decodes [0x78] (.sei) &&
     decodes [0xD8] (.cld) && decodes [0xF8] (.sed)) = true := by decide +kernel

theorem test_decode_stack_and_flags_2 :
    (decodes [0xB8] (.clv) && decodes [0xEA] (.nop) &&
     decodes [0xCB] (.wai) && decodes [0xDB] (.stp)) = true := by decide +kernel

theorem test_decode_illegal_1 :
    (decodes [0x02] (.illegal 0x02) && decodes [0x03] (.illegal 0x03) &&
     decodes [0x0B] (.illegal 0x0B) && decodes [0x13] (.illegal 0x13) &&
     decodes [0x1B] (.illegal 0x1B) && decodes [0x22] (.illegal 0x22) &&
     decodes [0x23] (.illegal 0x23) && decodes [0x2B] (.illegal 0x2B) &&
     decodes [0x33] (.illegal 0x33) && decodes [0x3B] (.illegal 0x3B) &&
     decodes [0x42] (.illegal 0x42) && decodes [0x43] (.illegal 0x43) &&
     decodes [0x44] (.illegal 0x44) && decodes [0x4B] (.illegal 0x4B)) = true := by decide +kernel

theorem test_decode_illegal_2 :
    (decodes [0x53] (.illegal 0x53) && decodes [0x54] (.illegal 0x54) &&
     decodes [0x5B] (.illegal 0x5B) && decodes [0x5C] (.illegal 0x5C) &&
     decodes [0x62] (.illegal 0x62) && decodes [0x63] (.illegal 0x63) &&
     decodes [0x6B] (.illegal 0x6B) && decodes [0x73] (.illegal 0x73) &&
     decodes [0x7B] (.illegal 0x7B) && decodes [0x82] (.illegal 0x82) &&
     decodes [0x83] (.illegal 0x83) && decodes [0x8B] (.illegal 0x8B) &&
     decodes [0x93] (.illegal 0x93) && decodes [0x9B] (.illegal 0x9B)) = true := by decide +kernel

theorem test_decode_illegal_3 :
    (decodes [0xA3] (.illegal 0xA3) && decodes [0xAB] (.illegal 0xAB) &&
     decodes [0xB3] (.illegal 0xB3) && decodes [0xBB] (.illegal 0xBB) &&
     decodes [0xC2] (.illegal 0xC2) && decodes [0xC3] (.illegal 0xC3) &&
     decodes [0xD3] (.illegal 0xD3) && decodes [0xD4] (.illegal 0xD4) &&
     decodes [0xDC] (.illegal 0xDC) && decodes [0xE2] (.illegal 0xE2) &&
     decodes [0xE3] (.illegal 0xE3) && decodes [0xEB] (.illegal 0xEB) &&
     decodes [0xF3] (.illegal 0xF3) && decodes [0xF4] (.illegal 0xF4)) = true := by decide +kernel

theorem test_decode_illegal_4 :
    (decodes [0xFB] (.illegal 0xFB) && decodes [0xFC] (.illegal 0xFC)) = true := by decide +kernel

/-- The sides of a byte that the decoder could read wrong: word order, displacement order, the left-over bytes, a
truncated instruction (R142, R143). -/
theorem test_decode_operands : decode .w65c02s [0xAD, 0xFF, 0x00, 0x55] = .ok (.lda (.mem (.abs 0x00FF)), [0x55]) ∧
    decode .w65c02s [0x0F, 0x01, 0xFE] = .ok (.bbr0 0x01 0xFE, []) ∧
    decode .w65c02s [0x20, 0x34] = .error (.missingOperand 0x20) ∧ decode .w65c02s [] = .error .noOpcode := ⟨rfl, rfl, rfl, rfl⟩

theorem test_decode_levels : decode .c02Base [0x07, 0x10] = .ok (.illegal 0x07, [0x10]) ∧
    decode .c02BitOps [0x07, 0x10] = .ok (.rmb0 0x10, []) ∧ decode .c02BitOps [0xCB] = .ok (.illegal 0xCB, []) ∧
    decode .w65c02s [0xCB] = .ok (.wai, []) := ⟨rfl, rfl, rfl, rfl⟩

theorem test_decodeTableWord : decodeTableWord 24 0x12347C = some (.jmp (.iax 0x1234)) ∧
    decodeTableWord 8 0x20 = some (.jsr 0x0000) ∧ decodeTableWord 8 0xEA = some .nop := ⟨rfl, rfl, rfl⟩

/-! ## One step -/

/-- A machine with the default configuration, PC 0x0200, the registers, the status byte and the RAM bytes. -/
def machine (a x y sp p : Byte) (mem : List (Nat × Byte)) : State :=
  { State.reset with
    a := a, x := x, y := y, sp := sp, pc := 0x0200
    p := Flags.reset.unpack p
    ram := ⟨mem.foldl (fun m c => Memory.write m c.1 c.2) [], 0⟩ }

/-- The same at another PC. -/
def machineAt (pc : Addr) (a x y sp p : Byte) (mem : List (Nat × Byte)) : State :=
  { machine a x y sp p mem with pc := pc }

/-- The vectors 0xE000 (reset), 0xE100 (NMI, `INX`), 0xE200 (IRQ, `INY`) in ROM, as 95_test_vectors has them. -/
def withVectors (s : State) : State :=
  { s with srom := ⟨Memory.writeAll (Memory.write (Memory.write [] 0x100 0xE8) 0x200 0xC8) 0x1FFA
      [0x00, 0xE1, 0x00, 0xE0, 0x00, 0xE2], 0⟩ }

/-- What a test looks at after one step: A, X, Y, SP; PC; the status byte; the cycles; and some bytes of memory. -/
abbrev View := List Byte × Addr × Byte × Nat × List (Option Byte)

def view (t : State) (at_ : List Addr) : View :=
  ([t.a, t.x, t.y, t.sp], t.pc, t.p.pByte false, t.cycles, at_.map t.memByte)

/-- One step ends without a fault, and what is seen of it is `v`. -/
def sees (s : State) (at_ : List Addr) (v : View) : Bool :=
  match step s with
  | .next t => decide (t.fault = none) && decide (view t at_ = v)
  | _ => false

theorem test_step_loads :
    (
    -- AM3 LDA
    sees (machine 0x00 0xF5 0x00 0xFD 0x24 [(0x200, 0xb5), (0x201, 0x10), (0x5, 0x77), (0x105, 0x11)]) []
      ([0x77, 0xF5, 0x00, 0xFD], 0x0202, 0x24, 4, []) &&
    -- AM4 LDX
    sees (machine 0x00 0x00 0x02 0xFD 0x24 [(0x200, 0xb6), (0x201, 0xff), (0x1, 0x33)]) []
      ([0x00, 0x33, 0x02, 0xFD], 0x0202, 0x24, 4, []) &&
    -- AM13 LDA
    sees (machine 0x00 0x00 0x10 0xFD 0x24 [(0x200, 0xb1), (0x201, 0x20), (0x20, 0xf8), (0x21, 0x30), (0x3108, 0x5d)]) []
      ([0x5D, 0x00, 0x10, 0xFD], 0x0202, 0x24, 6, []) &&
    -- LS2 LDX
    sees (machine 0x00 0x11 0x00 0xFD 0x24 [(0x200, 0xa2), (0x201, 0x0)]) []
      ([0x00, 0x00, 0x00, 0xFD], 0x0202, 0x26, 2, []) &&
    -- LS3 LDY
    sees (machine 0x00 0x00 0x00 0xFD 0xA6 [(0x200, 0xa0), (0x201, 0x7f)]) []
      ([0x00, 0x00, 0x7F, 0xFD], 0x0202, 0x24, 2, []) &&
    -- LS5 LDY
    sees (machine 0x00 0x02 0x00 0xFD 0x24 [(0x200, 0xbc), (0x201, 0x0), (0x202, 0x12), (0x1202, 0x1)]) []
      ([0x00, 0x02, 0x01, 0xFD], 0x0203, 0x24, 4, [])) = true := by decide +kernel

theorem test_step_stores_and_transfers_1 :
    (
    -- AM9 STA
    sees (machine 0xAB 0x01 0x00 0xFD 0x24 [(0x200, 0x9d), (0x201, 0x0), (0x202, 0x12)]) [0x1201]
      ([0xAB, 0x01, 0x00, 0xFD], 0x0203, 0x24, 5, [some 0xAB]) &&
    -- AM14 STA
    sees (machine 0xCD 0x00 0x01 0xFD 0x24 [(0x200, 0x91), (0x201, 0x20), (0x20, 0x0), (0x21, 0x30)]) [0x3001]
      ([0xCD, 0x00, 0x01, 0xFD], 0x0202, 0x24, 6, [some 0xCD]) &&
    -- LS9 STX
    sees (machine 0x00 0x12 0x01 0xFD 0x24 [(0x200, 0x96), (0x201, 0x10)]) [0x0011]
      ([0x00, 0x12, 0x01, 0xFD], 0x0202, 0x24, 4, [some 0x12]) &&
    -- LS10 STX
    sees (machine 0x00 0x34 0x00 0xFD 0x24 [(0x200, 0x8e), (0x201, 0x0), (0x202, 0x3)]) [0x0300]
      ([0x00, 0x34, 0x00, 0xFD], 0x0203, 0x24, 4, [some 0x34]) &&
    -- LS11 STY
    sees (machine 0x00 0x01 0x56 0xFD 0x24 [(0x200, 0x94), (0x201, 0x10)]) [0x0011]
      ([0x00, 0x01, 0x56, 0xFD], 0x0202, 0x24, 4, [some 0x56]) &&
    -- LS12 STZ
    sees (machine 0xFF 0x00 0x00 0xFD 0x24 [(0x200, 0x64), (0x201, 0x10), (0x10, 0xee)]) [0x0010]
      ([0xFF, 0x00, 0x00, 0xFD], 0x0202, 0x24, 3, [some 0x00]) &&
    -- LS13 STZ
    sees (machine 0x00 0x01 0x00 0xFD 0x24 [(0x200, 0x9e), (0x201, 0x0), (0x202, 0x3), (0x301, 0xee)]) [0x0301]
      ([0x00, 0x01, 0x00, 0xFD], 0x0203, 0x24, 5, [some 0x00]) &&
    -- LS14 TAX
    sees (machine 0x80 0x00 0x00 0xFD 0x24 [(0x200, 0xaa)]) []
      ([0x80, 0x80, 0x00, 0xFD], 0x0201, 0xA4, 2, [])) = true := by decide +kernel

theorem test_step_stores_and_transfers_2 :
    (
    -- LS15 TAY
    sees (machine 0x00 0x00 0x01 0xFD 0x24 [(0x200, 0xa8)]) []
      ([0x00, 0x00, 0x00, 0xFD], 0x0201, 0x26, 2, []) &&
    -- LS16 TXA
    sees (machine 0x80 0x7F 0x00 0xFD 0xA4 [(0x200, 0x8a)]) []
      ([0x7F, 0x7F, 0x00, 0xFD], 0x0201, 0x24, 2, []) &&
    -- LS17 TYA
    sees (machine 0x00 0x00 0xFF 0xFD 0x24 [(0x200, 0x98)]) []
      ([0xFF, 0x00, 0xFF, 0xFD], 0x0201, 0xA4, 2, []) &&
    -- LS18 TSX
    sees (machine 0x00 0x00 0x00 0xFD 0x24 [(0x200, 0xba)]) []
      ([0x00, 0xFD, 0x00, 0xFD], 0x0201, 0xA4, 2, []) &&
    -- LS19 TXS
    sees (machine 0x00 0x00 0x00 0xFD 0xA4 [(0x200, 0x9a)]) []
      ([0x00, 0x00, 0x00, 0x00], 0x0201, 0xA4, 2, [])) = true := by decide +kernel

theorem test_step_adc_and_sbc :
    (
    -- AL2 ADC
    sees (machine 0xFF 0x00 0x00 0xFD 0x24 [(0x200, 0x69), (0x201, 0x1)]) []
      ([0x00, 0x00, 0x00, 0xFD], 0x0202, 0x27, 2, []) &&
    -- AL5 ADC
    sees (machine 0x19 0x00 0x00 0xFD 0x2C [(0x200, 0x69), (0x201, 0x1)]) []
      ([0x20, 0x00, 0x00, 0xFD], 0x0202, 0x2C, 3, []) &&
    -- AL10 SBC
    sees (machine 0x03 0x00 0x00 0xFD 0x24 [(0x200, 0xe9), (0x201, 0x1)]) []
      ([0x01, 0x00, 0x00, 0xFD], 0x0202, 0x25, 2, []) &&
    -- AL13 SBC
    sees (machine 0x20 0x00 0x00 0xFD 0x2D [(0x200, 0xe9), (0x201, 0x1)]) []
      ([0x19, 0x00, 0x00, 0xFD], 0x0202, 0x2D, 3, [])) = true := by decide +kernel

theorem test_step_logic :
    (
    -- AL16 AND
    sees (machine 0xF0 0x00 0x00 0xFD 0x24 [(0x200, 0x29), (0x201, 0xf)]) []
      ([0x00, 0x00, 0x00, 0xFD], 0x0202, 0x26, 2, []) &&
    -- AL17 ORA
    sees (machine 0x01 0x00 0x00 0xFD 0x24 [(0x200, 0x9), (0x201, 0x80)]) []
      ([0x81, 0x00, 0x00, 0xFD], 0x0202, 0xA4, 2, []) &&
    -- AL18 EOR
    sees (machine 0xAA 0x00 0x00 0xFD 0x24 [(0x200, 0x49), (0x201, 0xff)]) []
      ([0x55, 0x00, 0x00, 0xFD], 0x0202, 0x24, 2, [])) = true := by decide +kernel

theorem test_step_compares_and_bit :
    (
    -- AL19 CMP
    sees (machine 0x40 0x00 0x00 0xFD 0x24 [(0x200, 0xc9), (0x201, 0x40)]) []
      ([0x40, 0x00, 0x00, 0xFD], 0x0202, 0x27, 2, []) &&
    -- AL21 CMP
    sees (machine 0x80 0x00 0x00 0xFD 0x24 [(0x200, 0xc9), (0x201, 0x0)]) []
      ([0x80, 0x00, 0x00, 0xFD], 0x0202, 0xA5, 2, []) &&
    -- AL22 CPX
    sees (machine 0x00 0x20 0x00 0xFD 0x24 [(0x200, 0xe0), (0x201, 0x10)]) []
      ([0x00, 0x20, 0x00, 0xFD], 0x0202, 0x25, 2, []) &&
    -- AL23 CPY
    sees (machine 0x00 0x00 0x01 0xFD 0x24 [(0x200, 0xc4), (0x201, 0x10), (0x10, 0x2)]) []
      ([0x00, 0x00, 0x01, 0xFD], 0x0202, 0xA4, 3, []) &&
    -- AL24 BIT
    sees (machine 0x01 0x00 0x00 0xFD 0x24 [(0x200, 0x24), (0x201, 0x10), (0x10, 0xc0)]) []
      ([0x01, 0x00, 0x00, 0xFD], 0x0202, 0xE6, 3, []) &&
    -- AL25 BIT
    sees (machine 0x01 0x00 0x00 0xFD 0x24 [(0x200, 0x89), (0x201, 0xc0)]) []
      ([0x01, 0x00, 0x00, 0xFD], 0x0202, 0x26, 2, [])) = true := by decide +kernel

theorem test_step_counts :
    (
    -- AM19 INC
    sees (machine 0x00 0x01 0x00 0xFD 0x24 [(0x200, 0xfe), (0x201, 0x0), (0x202, 0x12), (0x1201, 0x41)]) [0x1201]
      ([0x00, 0x01, 0x00, 0xFD], 0x0203, 0x24, 7, [some 0x42]) &&
    -- AL28 INC
    sees (machine 0x7F 0x00 0x00 0xFD 0x24 [(0x200, 0x1a)]) []
      ([0x80, 0x00, 0x00, 0xFD], 0x0201, 0xA4, 2, []) &&
    -- AL29 DEC
    sees (machine 0x00 0x00 0x00 0xFD 0x24 [(0x200, 0xc6), (0x201, 0x10), (0x10, 0x0)]) [0x0010]
      ([0x00, 0x00, 0x00, 0xFD], 0x0202, 0xA4, 5, [some 0xFF]) &&
    -- AL30 DEC
    sees (machine 0x01 0x00 0x00 0xFD 0x24 [(0x200, 0x3a)]) []
      ([0x00, 0x00, 0x00, 0xFD], 0x0201, 0x26, 2, []) &&
    -- AL31 INX
    sees (machine 0x00 0xFF 0x00 0xFD 0x24 [(0x200, 0xe8)]) []
      ([0x00, 0x00, 0x00, 0xFD], 0x0201, 0x26, 2, []) &&
    -- AL32 INY
    sees (machine 0x00 0x00 0x7F 0xFD 0x24 [(0x200, 0xc8)]) []
      ([0x00, 0x00, 0x80, 0xFD], 0x0201, 0xA4, 2, []) &&
    -- AL33 DEX
    sees (machine 0x00 0x00 0x00 0xFD 0x24 [(0x200, 0xca)]) []
      ([0x00, 0xFF, 0x00, 0xFD], 0x0201, 0xA4, 2, []) &&
    -- AL34 DEY
    sees (machine 0x00 0x00 0x01 0xFD 0x24 [(0x200, 0x88)]) []
      ([0x00, 0x00, 0x00, 0xFD], 0x0201, 0x26, 2, [])) = true := by decide +kernel

theorem test_step_shifts :
    (
    -- AM18 ASL
    sees (machine 0x00 0x01 0x00 0xFD 0x24 [(0x200, 0x1e), (0x201, 0xff), (0x202, 0x12), (0x1300, 0x41)]) [0x1300]
      ([0x00, 0x01, 0x00, 0xFD], 0x0203, 0xA4, 7, [some 0x82]) &&
    -- SH1 ASL
    sees (machine 0x81 0x00 0x00 0xFD 0x24 [(0x200, 0xa)]) []
      ([0x02, 0x00, 0x00, 0xFD], 0x0201, 0x25, 2, []) &&
    -- SH3 LSR
    sees (machine 0x01 0x00 0x00 0xFD 0x24 [(0x200, 0x4a)]) []
      ([0x00, 0x00, 0x00, 0xFD], 0x0201, 0x27, 2, []) &&
    -- SH4 LSR
    sees (machine 0x00 0x00 0x00 0xFD 0xA4 [(0x200, 0x4e), (0x201, 0x0), (0x202, 0x3), (0x300, 0x80)]) [0x0300]
      ([0x00, 0x00, 0x00, 0xFD], 0x0203, 0x24, 6, [some 0x40]) &&
    -- SH5 ROL
    sees (machine 0x80 0x00 0x00 0xFD 0x25 [(0x200, 0x2a)]) []
      ([0x01, 0x00, 0x00, 0xFD], 0x0201, 0x25, 2, []) &&
    -- SH6 ROL
    sees (machine 0x40 0x00 0x00 0xFD 0x24 [(0x200, 0x2a)]) []
      ([0x80, 0x00, 0x00, 0xFD], 0x0201, 0xA4, 2, []) &&
    -- SH7 ROR
    sees (machine 0x00 0x00 0x00 0xFD 0x25 [(0x200, 0x66), (0x201, 0x10), (0x10, 0x1)]) [0x0010]
      ([0x00, 0x00, 0x00, 0xFD], 0x0202, 0xA5, 5, [some 0x80]) &&
    -- SH8 ROR
    sees (machine 0x02 0x00 0x00 0xFD 0x24 [(0x200, 0x6a)]) []
      ([0x01, 0x00, 0x00, 0xFD], 0x0201, 0x24, 2, [])) = true := by decide +kernel

theorem test_step_bit_operations :
    (
    -- SH9 TSB
    sees (machine 0x0F 0x00 0x00 0xFD 0x24 [(0x200, 0x4), (0x201, 0x10), (0x10, 0xf0)]) [0x0010]
      ([0x0F, 0x00, 0x00, 0xFD], 0x0202, 0x26, 5, [some 0xFF]) &&
    -- SH10 TSB
    sees (machine 0x81 0x00 0x00 0xFD 0x24 [(0x200, 0xc), (0x201, 0x0), (0x202, 0x3), (0x300, 0x1)]) [0x0300]
      ([0x81, 0x00, 0x00, 0xFD], 0x0203, 0x24, 6, [some 0x81]) &&
    -- SH11 TRB
    sees (machine 0x0F 0x00 0x00 0xFD 0x24 [(0x200, 0x14), (0x201, 0x10), (0x10, 0xff)]) [0x0010]
      ([0x0F, 0x00, 0x00, 0xFD], 0x0202, 0x24, 5, [some 0xF0]) &&
    -- SH12 TRB
    sees (machine 0x0F 0x00 0x00 0xFD 0x24 [(0x200, 0x1c), (0x201, 0x0), (0x202, 0x3), (0x300, 0xf0)]) [0x0300]
      ([0x0F, 0x00, 0x00, 0xFD], 0x0203, 0x26, 6, [some 0xF0]) &&
    -- SH13 RMB3
    sees (machine 0x00 0x00 0x00 0xFD 0x26 [(0x200, 0x37), (0x201, 0x10), (0x10, 0xff)]) [0x0010]
      ([0x00, 0x00, 0x00, 0xFD], 0x0202, 0x26, 5, [some 0xF7]) &&
    -- SH14 SMB7
    sees (machine 0x00 0x00 0x00 0xFD 0x24 [(0x200, 0xf7), (0x201, 0x10), (0x10, 0x0)]) [0x0010]
      ([0x00, 0x00, 0x00, 0xFD], 0x0202, 0x24, 5, [some 0x80])) = true := by decide +kernel

theorem test_step_branches_1 :
    (
    -- CT1 BNE
    sees (machine 0x00 0x00 0x00 0xFD 0x24 [(0x200, 0xd0), (0x201, 0x10)]) []
      ([0x00, 0x00, 0x00, 0xFD], 0x0212, 0x24, 3, []) &&
    -- CT2 BNE
    sees (machine 0x00 0x00 0x00 0xFD 0x26 [(0x200, 0xd0), (0x201, 0x10)]) []
      ([0x00, 0x00, 0x00, 0xFD], 0x0202, 0x26, 2, []) &&
    -- CT3 BEQ
    sees (machine 0x00 0x00 0x00 0xFD 0x26 [(0x200, 0xf0), (0x201, 0xfc)]) []
      ([0x00, 0x00, 0x00, 0xFD], 0x01FE, 0x26, 4, []) &&
    -- CT4 BCC
    sees (machineAt 0x02F0 0x00 0x00 0x00 0xFD 0x24 [(0x2f0, 0x90), (0x2f1, 0x7f)]) []
      ([0x00, 0x00, 0x00, 0xFD], 0x0371, 0x24, 4, []) &&
    -- CT5 BCS
    sees (machine 0x00 0x00 0x00 0xFD 0x25 [(0x200, 0xb0), (0x201, 0x2)]) []
      ([0x00, 0x00, 0x00, 0xFD], 0x0204, 0x25, 3, []) &&
    -- CT6 BMI
    sees (machine 0x00 0x00 0x00 0xFD 0xA4 [(0x200, 0x30), (0x201, 0x2)]) []
      ([0x00, 0x00, 0x00, 0xFD], 0x0204, 0xA4, 3, []) &&
    -- CT7 BPL
    sees (machine 0x00 0x00 0x00 0xFD 0xA4 [(0x200, 0x10), (0x201, 0x2)]) []
      ([0x00, 0x00, 0x00, 0xFD], 0x0202, 0xA4, 2, []) &&
    -- CT8 BVC
    sees (machine 0x00 0x00 0x00 0xFD 0x24 [(0x200, 0x50), (0x201, 0x2)]) []
      ([0x00, 0x00, 0x00, 0xFD], 0x0204, 0x24, 3, [])) = true := by decide +kernel

theorem test_step_branches_2 :
    (
    -- CT9 BVS
    sees (machine 0x00 0x00 0x00 0xFD 0x64 [(0x200, 0x70), (0x201, 0x2)]) []
      ([0x00, 0x00, 0x00, 0xFD], 0x0204, 0x64, 3, []) &&
    -- CT10 BRA
    sees (machineAt 0x0280 0x00 0x00 0x00 0xFD 0x24 [(0x280, 0x80), (0x281, 0x80)]) []
      ([0x00, 0x00, 0x00, 0xFD], 0x0202, 0x24, 3, []) &&
    -- CT11 BRA
    sees (machine 0x00 0x00 0x00 0xFD 0x24 [(0x200, 0x80), (0x201, 0xfe)]) []
      ([0x00, 0x00, 0x00, 0xFD], 0x0200, 0x24, 3, [])) = true := by decide +kernel

theorem test_step_bit_branches :
    (
    -- CT12 BBR0
    sees (machine 0x00 0x00 0x00 0xFD 0x24 [(0x200, 0xf), (0x201, 0x10), (0x202, 0x5), (0x10, 0xfe)]) []
      ([0x00, 0x00, 0x00, 0xFD], 0x0208, 0x24, 6, []) &&
    -- CT13 BBR0
    sees (machine 0x00 0x00 0x00 0xFD 0x24 [(0x200, 0xf), (0x201, 0x10), (0x202, 0x5), (0x10, 0x1)]) []
      ([0x00, 0x00, 0x00, 0xFD], 0x0203, 0x24, 5, []) &&
    -- CT14 BBS7
    sees (machine 0x00 0x00 0x00 0xFD 0x24 [(0x200, 0xff), (0x201, 0x10), (0x202, 0xfb), (0x10, 0x80)]) []
      ([0x00, 0x00, 0x00, 0xFD], 0x01FE, 0x24, 7, [])) = true := by decide +kernel

theorem test_step_jumps :
    (
    -- CT16 JMP
    sees (machine 0x00 0x00 0x00 0xFD 0x24 [(0x200, 0x6c), (0x201, 0xff), (0x202, 0x12), (0x12ff, 0x78), (0x1300, 0x56), (0x1200, 0xee)]) []
      ([0x00, 0x00, 0x00, 0xFD], 0x5678, 0x24, 6, []) &&
    -- CT17 JMP
    sees (machine 0x00 0x04 0x00 0xFD 0x24 [(0x200, 0x7c), (0x201, 0x0), (0x202, 0x12), (0x1204, 0xcd), (0x1205, 0x2b)]) []
      ([0x00, 0x04, 0x00, 0xFD], 0x2BCD, 0x24, 6, []) &&
    -- CT18 JSR
    sees (machine 0x00 0x00 0x00 0xFD 0x24 [(0x200, 0x20), (0x201, 0x0), (0x202, 0x30)]) [0x01FD, 0x01FC]
      ([0x00, 0x00, 0x00, 0xFB], 0x3000, 0x24, 6, [some 0x02, some 0x02]) &&
    -- CT19 RTS
    sees (machineAt 0x3000 0x00 0x00 0x00 0xFB 0x24 [(0x3000, 0x60), (0x1fc, 0x2), (0x1fd, 0x2)]) []
      ([0x00, 0x00, 0x00, 0xFD], 0x0203, 0x24, 6, []) &&
    -- CT20 RTI
    sees (machineAt 0x3000 0x00 0x00 0x00 0xFA 0x24 [(0x3000, 0x40), (0x1fb, 0xf3), (0x1fc, 0x34), (0x1fd, 0x12)]) []
      ([0x00, 0x00, 0x00, 0xFD], 0x1234, 0xE3, 6, []) &&
    -- CT21 BRK
    sees (withVectors (machine 0x00 0x00 0x00 0xFD 0x29 [(0x200, 0x0), (0x201, 0xea)])) [0x01FD, 0x01FC, 0x01FB]
      ([0x00, 0x00, 0x00, 0xFA], 0xE200, 0x25, 7, [some 0x02, some 0x02, some 0x39]) &&
    -- CT23 RTS
    sees (machineAt 0x3000 0x00 0x00 0x00 0xFF 0x24 [(0x3000, 0x60), (0x100, 0x33), (0x101, 0x44)]) []
      ([0x00, 0x00, 0x00, 0x01], 0x4434, 0x24, 6, [])) = true := by decide +kernel

theorem test_step_stack_and_flags_1 :
    (
    -- ST1 PHA
    sees (machine 0x42 0x00 0x00 0xFD 0x24 [(0x200, 0x48)]) [0x01FD]
      ([0x42, 0x00, 0x00, 0xFC], 0x0201, 0x24, 3, [some 0x42]) &&
    -- ST2 PHA
    sees (machine 0x42 0x00 0x00 0x00 0x24 [(0x200, 0x48)]) [0x0100]
      ([0x42, 0x00, 0x00, 0xFF], 0x0201, 0x24, 3, [some 0x42]) &&
    -- ST3 PHP
    sees (machine 0x00 0x00 0x00 0xFD 0xA1 [(0x200, 0x8)]) [0x01FD]
      ([0x00, 0x00, 0x00, 0xFC], 0x0201, 0xA1, 3, [some 0xB1]) &&
    -- ST4 PHX
    sees (machine 0x00 0x11 0x00 0xFD 0x24 [(0x200, 0xda)]) [0x01FD]
      ([0x00, 0x11, 0x00, 0xFC], 0x0201, 0x24, 3, [some 0x11]) &&
    -- ST5 PHY
    sees (machine 0x00 0x00 0x22 0xFD 0x24 [(0x200, 0x5a)]) [0x01FD]
      ([0x00, 0x00, 0x22, 0xFC], 0x0201, 0x24, 3, [some 0x22]) &&
    -- ST6 PLA
    sees (machine 0x00 0x00 0x00 0xFC 0x24 [(0x200, 0x68), (0x1fd, 0x80)]) []
      ([0x80, 0x00, 0x00, 0xFD], 0x0201, 0xA4, 4, []) &&
    -- ST7 PLP
    sees (machine 0x00 0x00 0x00 0xFC 0x24 [(0x200, 0x28), (0x1fd, 0xff)]) []
      ([0x00, 0x00, 0x00, 0xFD], 0x0201, 0xEF, 4, []) &&
    -- ST8 PLP
    sees (machine 0x00 0x00 0x00 0xFC 0x24 [(0x200, 0x28), (0x1fd, 0x0)]) []
      ([0x00, 0x00, 0x00, 0xFD], 0x0201, 0x20, 4, [])) = true := by decide +kernel

theorem test_step_stack_and_flags_2 :
    (
    -- ST9 PLX
    sees (machine 0x00 0x00 0x00 0xFC 0x24 [(0x200, 0xfa), (0x1fd, 0x0)]) []
      ([0x00, 0x00, 0x00, 0xFD], 0x0201, 0x26, 4, []) &&
    -- ST10 PLY
    sees (machine 0x00 0x00 0x00 0xFF 0x24 [(0x200, 0x7a), (0x100, 0x7f)]) []
      ([0x00, 0x00, 0x7F, 0x00], 0x0201, 0x24, 4, []) &&
    -- ST11 CLC
    sees (machine 0x00 0x00 0x00 0xFD 0x25 [(0x200, 0x18)]) []
      ([0x00, 0x00, 0x00, 0xFD], 0x0201, 0x24, 2, []) &&
    -- ST12 SEC
    sees (machine 0x00 0x00 0x00 0xFD 0x24 [(0x200, 0x38)]) []
      ([0x00, 0x00, 0x00, 0xFD], 0x0201, 0x25, 2, []) &&
    -- ST13 CLI
    sees (machine 0x00 0x00 0x00 0xFD 0x24 [(0x200, 0x58)]) []
      ([0x00, 0x00, 0x00, 0xFD], 0x0201, 0x20, 2, []) &&
    -- ST14 SEI
    sees (machine 0x00 0x00 0x00 0xFD 0x20 [(0x200, 0x78)]) []
      ([0x00, 0x00, 0x00, 0xFD], 0x0201, 0x24, 2, []) &&
    -- ST15 CLD
    sees (machine 0x00 0x00 0x00 0xFD 0x2C [(0x200, 0xd8)]) []
      ([0x00, 0x00, 0x00, 0xFD], 0x0201, 0x24, 2, []) &&
    -- ST16 SED
    sees (machine 0x00 0x00 0x00 0xFD 0x24 [(0x200, 0xf8)]) []
      ([0x00, 0x00, 0x00, 0xFD], 0x0201, 0x2C, 2, [])) = true := by decide +kernel

theorem test_step_stack_and_flags_3 :
    (
    -- ST17 CLV
    sees (machine 0x00 0x00 0x00 0xFD 0x64 [(0x200, 0xb8)]) []
      ([0x00, 0x00, 0x00, 0xFD], 0x0201, 0x24, 2, []) &&
    -- ST18 NOP
    sees (machine 0x00 0x00 0x00 0xFD 0x24 [(0x200, 0xea)]) []
      ([0x00, 0x00, 0x00, 0xFD], 0x0201, 0x24, 2, [])) = true := by decide +kernel

theorem test_step_interrupts :
    (
    -- EX13 NOP
    sees { withVectors (machine 0x00 0x00 0x00 0xFD 0x20 [(0x200, 0xea)]) with pendingIrq := true } [0x01FD, 0x01FC, 0x01FB]
      ([0x00, 0x00, 0x01, 0xFA], 0xE201, 0x24, 9, [some 0x02, some 0x00, some 0x20]) &&
    -- EX14 NOP
    sees { withVectors (machine 0x00 0x00 0x00 0xFD 0x24 [(0x200, 0xea)]) with pendingIrq := true } []
      ([0x00, 0x00, 0x00, 0xFD], 0x0201, 0x24, 2, []) &&
    -- EX15 NOP
    sees { withVectors (machine 0x00 0x00 0x00 0xFD 0x24 [(0x200, 0xea)]) with pendingNmi := true } [0x01FD, 0x01FC, 0x01FB]
      ([0x00, 0x01, 0x00, 0xFA], 0xE101, 0x24, 9, [some 0x02, some 0x00, some 0x24]) &&
    -- EX16 NOP
    sees { withVectors (machine 0x00 0x00 0x00 0xFD 0x29 [(0x200, 0xea)]) with pendingIrq := true, pendingNmi := true } [0x01FD, 0x01FC, 0x01FB]
      ([0x00, 0x01, 0x00, 0xFA], 0xE101, 0x25, 9, [some 0x02, some 0x00, some 0x29]) &&
    -- EX19 NOP
    sees { withVectors (machine 0x00 0x00 0x00 0xFD 0x20 [(0x200, 0xea)]) with pendingIrq := true, mode := .wait } [0x01FD, 0x01FC, 0x01FB]
      ([0x00, 0x00, 0x01, 0xFA], 0xE201, 0x24, 9, [some 0x02, some 0x00, some 0x20]) &&
    -- EX20 NOP
    sees { withVectors (machine 0x00 0x00 0x00 0xFD 0x24 [(0x200, 0xea)]) with pendingNmi := true, mode := .wait } [0x01FD, 0x01FC, 0x01FB]
      ([0x00, 0x01, 0x00, 0xFA], 0xE101, 0x24, 9, [some 0x02, some 0x00, some 0x24])) = true := by decide +kernel


/-! The bit families, all eight of each, from R286, R287, R330, R331: the byte has bit n alone set, or alone clear. -/

/-- RMBn on 0xFF (R286): bit n alone is cleared; five cycles, two bytes, no register, no flag. -/
theorem test_RMB : (List.range 8).all (fun n =>
    sees (machine 0x11 0x22 0x33 0xFD 0x20 [(0x10, 0xFF), (0x200, BitVec.ofNat 8 (0x07 + 16 * n)), (0x201, 0x10)]) [0x10]
      ([0x11, 0x22, 0x33, 0xFD], 0x0202, 0x20, 5, [some (BitVec.ofNat 8 (255 - 2 ^ n))])) = true := by decide +kernel

/-- SMBn on 0x00 (R287). -/
theorem test_SMB : (List.range 8).all (fun n =>
    sees (machine 0x11 0x22 0x33 0xFD 0x20 [(0x200, BitVec.ofNat 8 (0x87 + 16 * n)), (0x201, 0x10)]) [0x10]
      ([0x11, 0x22, 0x33, 0xFD], 0x0202, 0x20, 5, [some (BitVec.ofNat 8 (2 ^ n))])) = true := by decide +kernel

/-- BBRn taken (R330): bit n alone is clear; displacement -2 from 0x0203; six cycles. -/
theorem test_BBR : (List.range 8).all (fun n =>
    sees (machine 0x11 0x22 0x33 0xFD 0x20 [(0x10, BitVec.ofNat 8 (255 - 2 ^ n)), (0x200, BitVec.ofNat 8 (0x0F + 16 * n)),
      (0x201, 0x10), (0x202, 0xFE)]) []
      ([0x11, 0x22, 0x33, 0xFD], 0x0201, 0x20, 6, [])) = true := by decide +kernel

/-- BBSn taken (R331): bit n alone is set; displacement +0x10. -/
theorem test_BBS : (List.range 8).all (fun n =>
    sees (machine 0x11 0x22 0x33 0xFD 0x20 [(0x10, BitVec.ofNat 8 (2 ^ n)), (0x200, BitVec.ofNat 8 (0x8F + 16 * n)),
      (0x201, 0x10), (0x202, 0x10)]) []
      ([0x11, 0x22, 0x33, 0xFD], 0x0213, 0x20, 6, [])) = true := by decide +kernel

/-- WAI and STP (R377, R378): three cycles, one byte, the mode. -/
theorem test_WAI_STP :
    (match step (machine 0 0 0 0xFD 0x24 [(0x200, 0xCB)]) with
      | .next t => decide (t.mode = .wait) && decide (t.pc = 0x0201) && decide (t.cycles = 3) | _ => false) = true ∧
    (match step (machine 0 0 0 0xFD 0x24 [(0x200, 0xDB)]) with
      | .next t => decide (t.mode = .stop) && decide (t.pc = 0x0201) && decide (t.cycles = 3) | _ => false) = true := by
  decide +kernel

/-- The fault a step latches, and PC after it. -/
def faultAfter (s : State) : Option (Fault × Addr) :=
  match step s with
  | .next t => t.fault.map fun f => (f, t.pc)
  | _ => none

/-- EX1, CT22: an illegal opcode, and BRK in `fatal` mode (R405, R413). -/
theorem test_faults : faultAfter (machine 0 0 0 0xFD 0x24 [(0x200, 0x02)]) = some (.illegalOpcode 0x02 0x0200, 0x0201) ∧
    faultAfter { machine 0 0 0 0xFD 0x24 [] with cfg := { Cfg.default with brkMode := .fatal } } =
      some (.brk 0x0200, 0x0201) := by decide +kernel

/-- A decimal ADC with a nibble above 9 runs, whatever the open values are (U3): PC and the cycles. -/
theorem test_ADC_invalid_bcd :
    (match step (machine 0x0A 0 0 0xFD 0x28 [(0x200, 0x69), (0x201, 0x01)]) with
      | .next t => decide (t.pc = 0x0202) && decide (t.cycles = 3) && decide (t.p.d = true) && decide (t.fault = none)
      | _ => false) = true := by decide +kernel

/-- EX4 to EX7, EX11, EX12: the faults of bus accesses; PC is past the instruction. -/
theorem test_bus_faults :
    faultAfter (machine 0x55 0 0 0xFD 0x24 [(0x200, 0x8D), (0x202, 0xE0)]) = some (.romWrite 0xE000 0x55, 0x0203) ∧
    faultAfter (machine 0 0 0 0xFD 0x24 [(0x200, 0xEE), (0x202, 0xC0)]) = some (.romWrite 0xC000 0x01, 0x0203) ∧
    faultAfter (machine 0 0 0 0xFD 0x24 [(0x200, 0xAD), (0x201, 0x04), (0x202, 0x80)]) =
      some (.deviceHole 0x8004 .read, 0x0203) ∧
    faultAfter (machine 0 0 0 0xFD 0x24 [(0x200, 0x8D), (0x201, 0xFF), (0x202, 0x8F)]) =
      some (.deviceHole 0x8FFF .write, 0x0203) ∧
    faultAfter (machine 0x20 0 0 0xFD 0x24 [(0x200, 0x8D), (0x201, 0x02), (0x202, 0x80)]) =
      some (.configError .parityUnsupported 0x20, 0x0203) ∧
    faultAfter (machine 0x10 0 0 0xFD 0x24 [(0x200, 0x8D), (0x201, 0x03), (0x202, 0x80)]) =
      some (.configError .unsupportedBaud 0x10, 0x0203) := by decide +kernel

/-- EX8, EX10: the fallback region, and the same in a strict build. -/
theorem test_fallback :
    sees (machine 0x55 0 0 0xFD 0x24 [(0x200, 0xAD), (0x202, 0x90)]) [] ([0, 0, 0, 0xFD], 0x0203, 0x26, 4, []) = true ∧
    faultAfter { machine 0x55 0 0 0xFD 0x24 [(0x200, 0xAD), (0x202, 0x90)] with
      cfg := { Cfg.default with strictUnmapped := true } } = some (.unmapped 0x9000 .read, 0x0203) := by decide +kernel

/-- EX2, ST21, ST19: a latched machine refuses; STOP does nothing; WAIT idles a cycle. -/
theorem test_modes :
    (match step { machine 0 0 0 0xFD 0x24 [] with fault := some (.illegalOpcode 0x02 0x0200) } with
      | .refused r => decide (r = .latched (.illegalOpcode 0x02 0x0200)) | _ => false) = true ∧
    (match step { machine 0 0 0 0xFD 0x24 [] with mode := .stop } with
      | .next t => decide (t = { machine 0 0 0 0xFD 0x24 [] with mode := .stop }) | _ => false) = true ∧
    sees { machine 0 0 0 0xFD 0x24 [] with mode := .wait } [] ([0, 0, 0, 0xFD], 0x0200, 0x24, 1, []) = true := by
  decide +kernel

/-! ## Devices and reset -/

/-- Timer 1 after each of `n` edges: counter, flag, armed. -/
def t1Trace : Nat → Via → List (BitVec 16 × Bool × Bool)
  | 0, _ => []
  | n + 1, v =>
    let w := (v.clockEdge true).1
    (w.t1c, w.ifr.getLsbD 6, w.t1Active) :: t1Trace n w

/-- VIA3 (one-shot) and VIA1 (free-running), V = 2. -/
theorem test_VIA_timer1 :
    t1Trace 5 ((Via.reset.write 4 0x02).write 5 0x00) = [(0x0001, false, true), (0x0000, false, true),
      (0xFFFF, true, false), (0xFFFF, true, false), (0xFFFF, true, false)] ∧
    t1Trace 4 (((Via.reset.write 11 0x40).write 4 0x02).write 5 0x00) = [(0x0001, false, true), (0x0000, false, true),
      (0x0002, true, true), (0x0001, true, true)] := by decide

/-- VIA4: IFR and IER as read, the acknowledging read of T1C-L. -/
theorem test_VIA_flags :
    let v := ((((Via.reset.write 4 0x01).write 5 0x00).clockEdge true).1.clockEdge true).1
    let w := v.write 14 0xC0
    (v.read 13).1 = 0x40 ∧ (v.read 14).1 = 0x80 ∧ (w.read 14).1 = 0xC0 ∧ (w.read 13).1 = 0xC0 ∧
    ((w.read 4).2.read 13).1 = 0x00 ∧ ((w.write 14 0x40).read 14).1 = 0x80 := by decide

/-- VIA5 and VIA6: port masks, and what port A acknowledges. -/
theorem test_VIA_ports :
    let v := (((Via.reset.write 0 0xA5).write 2 0x0F).write 1 0x3C).write 3 0xF0
    let w := (Via.reset.setFlag ifrCa1).1.setFlag ifrCa2
    (v.read 0).1 = 0xA0 ∧ (v.read 1).1 = 0x0C ∧ (v.read 15).1 = 0x0C ∧ (v.read 2).1 = 0x0F ∧
    (w.1.read 13).1 = 0x03 ∧ ((w.1.read 15).2.read 13).1 = 0x03 ∧ ((w.1.read 1).2.read 13).1 = 0x00 ∧
    (((w.1.write 12 0x0A).read 1).2.read 13).1 = 0x01 := by decide

/-- ACIA1: status, receive, overrun, the clearing read. -/
theorem test_ACIA_receive :
    let s := hostAciaReceive State.reset 0x41
    let t := hostAciaReceive s 0x42
    (State.reset.acia.read 1).1 = 0x50 ∧ (s.acia.read 1).1 = 0xD8 ∧ s.pendingIrq = true ∧ (t.acia.read 1).1 = 0xDC ∧
    (t.acia.read 0).1 = 0x41 ∧ ((t.acia.read 0).2.read 1).1 = 0x50 := by decide

/-- ACIA4, ACIA5: the port a control value programs, the rejected values, TX. -/
theorem test_ACIA_control :
    portConfig 0x1E = ⟨9600, 8, .one, .none⟩ ∧ portConfig 0x9E = ⟨9600, 8, .two, .none⟩ ∧
    portConfig 0xFE = ⟨9600, 5, .onePointFive, .none⟩ ∧ portConfig 0x38 = ⟨1200, 7, .one, .none⟩ ∧
    (match hostWriteMemory State.reset 0x8003 0x10 with
      | .error f => decide (f = .configError .unsupportedBaud 0x10) | .ok _ => false) = true ∧
    (match hostWriteMemory State.reset 0x8000 0x48 with
      | .ok t => decide (t.acia.tx = [0x48]) | .error _ => false) = true := by decide +kernel

/-- RST1, RST3: the vector, and a dirty machine. -/
theorem test_reset :
    (resetMachine (withVectors State.reset)).pc = 0xE000 ∧
    (let t := resetMachine { machine 0x77 1 2 3 0xFF [(0x300, 0xAA)] with
      pc := 0x1234, cycles := 999, mode := .stop, pendingNmi := true
      vias := [{ Via.reset with ier := 0x7F }, Via.reset] }
     t = State.reset) := by decide +kernel

/-- Bank windows (R110, R117): a store to the selected bank leaves the other; SelectBank shows it. -/
theorem test_banks :
    let s := { machine 0x5A 0 0 0xFD 0x24 [] with cfg := { Cfg.default with ramBanks := 2 } }
    (match writeNoCycle 0x0300 0x5A s with
      | .ok _ t =>
        match hostSelectBank t .ram 1 with
        | .ok u => decide (t.memByte 0x0300 = some 0x5A) && decide (u.memByte 0x0300 = some 0x00)
        | .error _ => false
      | .error _ _ => false) = true := by decide +kernel

/-- R401: the record of `RMB3 $10` and of a waiting step; only the bit-numbered families have a bit. -/
theorem test_trace :
    traceOf (machine 0 0 0 0xFD 0x24 [(0x200, 0x37), (0x201, 0x10), (0x10, 0xFF)]) =
      .trace ⟨.executed, none, some ⟨0x0200, 0x37, "RMB3", some 3, .zp, [0x10]⟩, 5⟩ ∧
    traceOf { machine 0 0 0 0xFD 0x24 [] with mode := .wait } = .trace ⟨.waiting, none, none, 1⟩ ∧
    bitNumber (.bbs7 0x10 0xFD) = some 7 ∧ bitNumber .nop = none := by decide +kernel

/-- VIA6, R485: a control edge on CB1 of VIA 1 with its flag enabled, and with it disabled. -/
theorem test_control_edge :
    let s := { machine 0 0 0 0xFD 0x24 [] with vias := [Via.reset, { Via.reset with ier := 0x10 }] }
    let t := hostViaControlEdge s 1 .cb1
    (t.pendingIrq = true ∧ (t.via 1).ifr = 0x10 ∧ t.via 0 = Via.reset) ∧
    (hostViaControlEdge s 1 .cb2).pendingIrq = false ∧ ((hostViaControlEdge s 1 .cb2).via 1).ifr = 0x08 := by
  decide +kernel

/-- The host's way of placing an instruction (log 9): at PC, and at the handler when an interrupt is entered first. -/
theorem test_withFetchWord :
    sees ({ State.reset with pc := 0x0200 }.withFetchWord 8 0xA9) [] ([0, 0, 0, 0xFD], 0x0202, 0x26, 2, []) = true ∧
    sees ({ withVectors State.reset with pc := 0x0200, pendingNmi := true }.withFetchWord 8 0xCA) []
      ([0, 0xFF, 0, 0xFA], 0xE101, 0xA4, 9, []) = true := by decide +kernel

/-! ## Witnesses

For every statement with hypotheses, a concrete state and operands that meet all of them together, one for each clause,
at boundary values. `ok` says that an operation ends with a value, `not ok` that it faults, `nexts` that the outcome is
a next state; the three lemmas turn them into the forms the statements have. -/

/-- The operation ends with a value. -/
def ok {α : Type} : EStateM.Result Fault State α → Bool
  | .ok _ _ => true
  | .error _ _ => false

theorem ok_iff {α : Type} {r : EStateM.Result Fault State α} : ok r = true ↔ ∃ v u, r = .ok v u := by
  cases r <;> simp [ok]

theorem not_ok_iff {α : Type} {r : EStateM.Result Fault State α} : ok r = false ↔ ∃ f u, r = .error f u := by
  cases r <;> simp [ok]

/-- The outcome is a next state, without a fault if `clean`. -/
def nexts (clean : Bool) : Host.Outcome State Fault Refusal → Bool
  | .next t => !clean || decide (t.fault = none)
  | _ => false

theorem nexts_iff {r : Host.Outcome State Fault Refusal} :
    nexts true r = true ↔ ∃ t, r = .next t ∧ t.fault = none := by
  cases r <;> simp [nexts]

/-- The effective address, if one is formed. -/
def addressOf (k : AccessKind) (m : Mem) (s : State) : Option Addr :=
  match effectiveAddress k m s with
  | .ok ea _ => some ea
  | .error _ _ => none

/-- A machine with every pointer and vector that the witnesses need. -/
def wit : State := withVectors (machine 0x45 0xFF 0x01 0xFD 0x24
  [(0x00, 0x12), (0xFF, 0x34), (0x1FE, 0x00), (0x1FF, 0x02), (0x200, 0xA9), (0x201, 0xFF)])

/-- The same in decimal mode, with A = 0x99 or 0x9A. -/
def witDecimal (a : Byte) : State := { wit with a := a, p := { wit.p with d := true } }

/-- PC in the device hole. -/
def witHole : State := { wit with pc := 0x8004 }

/-- No RAM in pages 0 to 15 of a strict build: every stack access and every zero-page access faults. -/
def witNoStack : State :=
  { machineAt 0x1000 0 0 0 0xFD 0x24 [] with
    cfg := { Cfg.default with ramStart := 0x1000, ramSize := 0x7000, strictUnmapped := true } }

/-- A VIA whose timers are armed. -/
def witVia (freeRunning countsPulses : Bool) : Via :=
  { Via.reset with
    t1c := 0x0002, t1l := 0x0005, t2c := 0x0002, t2l := 0x0005, ier := 0x60, t1Active := true, t2Active := true
    t1FreeRunning := freeRunning, t2CountsPulses := countsPulses, pb7OutputEnabled := freeRunning }

/-! ### Encoding and the step -/

theorem witness_DecodeOfEncodeIsTheInstruction :
    (Instr.lda (.mem (.abs 0xFFFF))).wellFormed .c02Base = true ∧ (Instr.rmb7 0xFF).wellFormed .c02BitOps = true ∧
    (Instr.bbs7 0xFF 0x80).wellFormed .w65c02s = true ∧ (Instr.illegal 0xCB).wellFormed .c02BitOps = true := by decide

theorem witness_DecodedBytesAreTheEncoding :
    decode .w65c02s [0xFF, 0x10, 0xFD, 0x00] = .ok (.bbs7 0x10 0xFD, [0x00]) ∧
    decode .c02Base [0xFF] = .ok (.illegal 0xFF, []) := ⟨rfl, rfl⟩

/-- Operand lists of each length, and opcode bytes on each side of the equivalence. -/
theorem witness_DecodingIsTotalAndGatedByLevel :
    ([] : List Byte).length + 1 = 1 ∧ ([0x10, 0xFD] : List Byte).length + 1 = 3 ∧
    ([0xFF, 0xFF] : List Byte).length = 2 ∧
    decode .w65c02s [0x02, 0xFF, 0xFF] = .ok (.illegal 0x02, [0xFF, 0xFF]) ∧ (0x02 : Byte) ∈ illegalBytes ∧
    decode .c02BitOps [0xCB, 0xFF, 0xFF] = .ok (.illegal 0xCB, [0xFF, 0xFF]) ∧
    decode .c02Base [0x07, 0xFF, 0xFF] = .ok (.illegal 0x07, [0xFF, 0xFF]) :=
  ⟨rfl, rfl, rfl, rfl, by decide, rfl, rfl⟩

theorem witness_StepRunsTheDecodedInstruction :
    (wit.fault = none ∧ wit.mode = .run ∧ wit.pendingNmi = false ∧ (wit.pendingIrq = true → wit.p.i = true) ∧
      (Instr.lda (.imm 0xFF)).wellFormed wit.cfg.isaLevel = true) ∧
    ∀ k b, (encode (.lda (.imm 0xFF)))[k]? = some b → wit.memByte (wit.pc + BitVec.ofNat 16 k) = some b := by
  refine ⟨by decide +kernel, fun k b h => ?_⟩
  match k, h with
  | 0, h => cases h; decide +kernel
  | 1, h => cases h; decide +kernel

theorem witness_IllegalAndUnreadableOpcodesLatchFaults :
    (let s := machine 0 0 0 0xFD 0x24 [(0x200, 0xFC)]
     s.fault = none ∧ s.mode = .run ∧ s.pendingNmi = false ∧ (s.pendingIrq = true → s.p.i = true) ∧
     (0xFC : Byte) ∈ illegalBytes ∧ s.memByte s.pc = some 0xFC) ∧
    (witHole.fault = none ∧ witHole.mode = .run ∧ witHole.pendingNmi = false ∧ witHole.pendingIrq = false ∧
     target witHole.cfg witHole.pc = .hole) ∧
    (let s := { witNoStack with pc := 0xBFFF }
     s.fault = none ∧ s.mode = .run ∧ s.pendingNmi = false ∧ s.pendingIrq = false ∧
     target s.cfg s.pc = .fallback ∧ s.cfg.strictUnmapped = true) := by decide +kernel

theorem witness_WaitStopAndFaultedModes :
    ({ wit with fault := some (.brk 0) } : State).fault = some (.brk 0) ∧
    (let s := { wit with mode := .stop }
     s.fault = none ∧ s.mode = .stop) ∧
    (let s := { wit with mode := .wait }
     s.fault = none ∧ s.mode = .wait ∧ s.pendingNmi = false ∧ s.pendingIrq = false) ∧
    (let s := { wit with mode := .wait, pendingIrq := true }
     s.fault = none ∧ s.mode = .wait ∧ (s.pendingNmi = true ∨ s.pendingIrq = true)) := by decide +kernel

/-! ### Exceptions -/

/-- SP at 0x01, so that the pushes wrap. -/
theorem witness_InterruptEntrySavesAndVectors :
    let s := { wit with sp := 0x01 }
    Memory.wf s.ram.cells = true ∧ pushesToRam 3 s = true ∧
    (s.memByte 0xFFFA = some (lo 0xE100) ∧ s.memByte 0xFFFB = some (hi 0xE100)) ∧
    (s.memByte 0xFFFE = some (lo 0xE200) ∧ s.memByte 0xFFFF = some (hi 0xE200)) := by decide +kernel

theorem witness_PollTakesNmiBeforeIrq :
    (let s := { wit with pendingNmi := true, pendingIrq := true }
     s.pendingNmi = true ∧ s.pendingIrq = true ∧ s.fault = none ∧ s.mode = .run ∧
     (match enterInterrupt 0xFFFA { s with pendingNmi := false } with
      | .ok _ u => decide (u.memByte u.pc = some 0xE8)
      | .error _ _ => false) = true) ∧
    (let s := { wit with pendingIrq := true, p := { wit.p with i := false } }
     s.pendingNmi = false ∧ s.pendingIrq = true ∧ s.p.i = false ∧ s.fault = none ∧ s.mode = .run ∧
     (match enterInterrupt 0xFFFE { s with pendingIrq := false } with
      | .ok _ u => decide (u.memByte u.pc = some 0xC8)
      | .error _ _ => false) = true) ∧
    (let s := { wit with pendingIrq := true }
     s.pendingNmi = false ∧ (s.pendingIrq = true → s.p.i = true)) := by decide +kernel

theorem witness_BrkTakesTheSoftwareInterrupt :
    ({ wit with cfg := { Cfg.default with brkMode := .fatal } } : State).cfg.brkMode = .fatal ∧
    (wit.cfg.brkMode = .architectural ∧ Memory.wf wit.ram.cells = true ∧ readable wit.cfg wit.pc = true ∧
     pushesToRam 3 wit = true ∧ wit.memByte 0xFFFE = some (lo 0xE200) ∧ wit.memByte 0xFFFF = some (hi 0xE200)) := by
  decide +kernel

/-- SP at 0xFE, so that the pulls wrap. -/
theorem witness_RtiRestoresStatusAndPc :
    let s := { machine 0 0 0 0xFE 0x24 [(0x1FF, 0xCF), (0x100, 0x34), (0x101, 0x12)] with pc := 0x0200 }
    pullable 3 s = true ∧ s.memByte (stackAddr (s.sp + 1)) = some 0xCF ∧ s.memByte (stackAddr (s.sp + 2)) = some 0x34 ∧
    s.memByte (stackAddr (s.sp + 3)) = some 0x12 := by decide +kernel

/-! ### Addressing and operands -/

/-- The zero-page pointer at 0xFF, whose high byte is at 0x00; the word is 0x1234. -/
theorem witness_EffectiveAddressesFollowTheModes :
    addressable (.izy 0xFF) wit = true ∧ addressable (.abx 0xFFFF) wit = true ∧
    (∀ p, pointerOf wit (.izy 0xFF) = some p →
      wit.memByte (zeroPage p) = some (lo 0x1234) ∧ wit.memByte (zeroPage (p + 1)) = some (hi 0x1234)) := by
  refine ⟨by decide +kernel, by decide +kernel, fun p h => ?_⟩
  cases h; decide +kernel

theorem witness_OperandIsTheAddressedByte :
    readable wit.cfg wit.pc = true ∧ addressOf .read (.zpx 0x01) wit = some 0x0000 ∧ wit.memByte 0x0000 = some 0x12 := by
  decide +kernel

/-- For the loads, the logic instructions, the compares and BIT: an operand that is read, one that is not (in the hole),
an operand byte that is not. -/
theorem witness_LoadsSetRegisterAndNZ :
    operandReads wit (.mem (.izy 0xFF)) = true ∧ operandReads wit (.imm 0xFF) = true ∧
    ok (readOperand (.mem (.abs 0x8004)) wit) = false ∧ ok (readOperand (.imm 0x00) witHole) = false := by decide +kernel

theorem witness_LogicCombinesWithA : operandReads wit (.mem (.izx 0x00)) = true ∧
    ok (readOperand (.mem (.abs 0x8FFF)) wit) = false := by decide +kernel

theorem witness_ComparesSetNZC : operandReads wit (.mem (.abx 0xFF01)) = true ∧
    ok (readOperand (.mem (.aby 0x8003)) wit) = false := by decide +kernel

theorem witness_BitTestsTheOperand : operandReads wit (.mem (.zpx 0x00)) = true ∧ operandReads wit (.imm 0x80) = true ∧
    ok (readOperand (.mem (.abs 0x800F)) wit) = false := by decide +kernel

/-- An address formed; none (an operand byte in the hole); the last byte of RAM. -/
theorem witness_StoresWriteTheRegister :
    ok (effectiveAddress .write (.izp 0xFF) wit) = true ∧ ok (effectiveAddress .write (.zp 0x00) witHole) = false ∧
    (reaches writable .write (.abs 0x7FFF) wit = true ∧ addressOf .write (.abs 0x7FFF) wit = some 0x7FFF ∧
      inRam wit.cfg 0x7FFF = true ∧ Memory.wf wit.ram.cells = true) := by decide +kernel

theorem witness_BinaryAddAndSubtract : operandReads wit (.mem (.zp 0xFF)) = true ∧ wit.p.d = false := by decide +kernel

/-- 0x99 and the operand 0x12 are BCD. -/
theorem witness_DecimalAddAndSubtract :
    operandReads (witDecimal 0x99) (.mem (.zp 0x00)) = true ∧ (witDecimal 0x99).p.d = true ∧
    validBcd (witDecimal 0x99).a = true ∧ (witDecimal 0x99).memByte 0x0000 = some 0x12 ∧ validBcd 0x12 = true := by
  decide +kernel

/-- 0x9A is not BCD. -/
theorem witness_InvalidBcdLeavesFiveOpenValues :
    operandReads (witDecimal 0x9A) (.mem (.zp 0x00)) = true ∧ (witDecimal 0x9A).p.d = true ∧
    (validBcd (witDecimal 0x9A).a && validBcd 0x12) = false := by decide +kernel

/-- What the clauses of `ModifiesAt` need, for an operand that is modified, one that cannot be read and one whose
address is not formed. -/
def modifies (k : AccessKind) (good bad : Mem) : Bool :=
  ok (effectiveAddress k good wit) &&
  reaches modifiable k good wit &&
  (match addressOf k good wit with
    | some ea => inRam wit.cfg ea
    | none => false) &&
  Memory.wf wit.ram.cells &&
  (match effectiveAddress k good wit with
    | .ok ea u => ok (busRead ea u)
    | .error _ _ => false) &&
  (match effectiveAddress k bad wit with
    | .ok ea u => !ok (busRead ea u)
    | .error _ _ => false) &&
  !ok (effectiveAddress k good witHole)

theorem witness_IncrementsAndDecrementsWrap : modifies .incDec (.zp 0xFF) (.abs 0x8004) = true := by decide +kernel

theorem witness_ShiftsMoveOneBit : modifies .shift (.abx 0xFF01) (.abx 0x7F05) = true := by decide +kernel

theorem witness_TsbTrbSetAndResetBits : modifies .shift (.abs 0x7FFF) (.abs 0x8FFF) = true := by decide +kernel

/-- A zero-page operand cannot be read on a machine without RAM there. -/
theorem witness_RmbAndSmbChangeTheirBit :
    (ok (effectiveAddress .shift (.zp 0x00) wit) = true ∧ reaches modifiable .shift (.zp 0x00) wit = true ∧
      inRam wit.cfg (zeroPage 0x00) = true ∧ Memory.wf wit.ram.cells = true) ∧
    (match effectiveAddress .shift (.zp 0x00) witNoStack with
      | .ok ea u => ok (busRead ea u)
      | .error _ _ => true) = false ∧
    ok (effectiveAddress .shift (.zp 0x00) witHole) = false := by decide +kernel

/-! ### Control transfer and the stack -/

theorem witness_BranchesFollowTheirFlag : readable wit.cfg wit.pc = true ∧ ok (fetch witHole) = false := by decide +kernel

theorem witness_BitBranchesTestTheirBit : readable wit.cfg wit.pc = true ∧ readable wit.cfg (zeroPage 0xFF) = true ∧
    readable wit.cfg (wit.pc + 1) = true := by decide +kernel

/-- The pointer at the end of the address space, and the one that X carries over it. -/
theorem witness_JmpGoesToItsTarget : readable wit.cfg wit.pc = true ∧ readable wit.cfg (wit.pc + 1) = true ∧
    (readable wit.cfg 0xFFFF = true ∧ readable wit.cfg (0xFFFF + 1) = true) ∧
    ((0x0000 : Addr).toNat = ((0xFF01 : Addr).toNat + wit.x.toNat) % 65536 ∧ readable wit.cfg 0x0000 = true ∧
      readable wit.cfg (0x0000 + 1) = true) := by decide +kernel

theorem witness_JsrAndRtsCallAndReturn :
    (let s := { wit with sp := 0x00 }
     fetchable 2 s = true ∧ pushable 2 s = true ∧ pushesToRam 2 s = true ∧ Memory.wf s.ram.cells = true) ∧
    (pullable 2 wit = true ∧ wit.memByte (stackAddr (wit.sp + 1)) = some 0x00 ∧
     wit.memByte (stackAddr (wit.sp + 2)) = some 0x02) := by decide +kernel

theorem witness_StackPrimitivesPushAndPull :
    (let s := { wit with sp := 0x00 }
     writable s.cfg (stackAddr s.sp) = true ∧ inRam s.cfg (stackAddr s.sp) = true ∧ Memory.wf s.ram.cells = true) ∧
    ok (push 0x55 witNoStack) = false ∧
    (let s := { wit with sp := 0xFF }
     readable s.cfg (stackAddr (s.sp + 1)) = true) ∧
    ok (pull witNoStack) = false := by decide +kernel

theorem witness_PushesStoreTheirRegister : pushable 1 { wit with sp := 0x00 } = true := by decide +kernel

theorem witness_PullsLoadTheirRegister : pullable 1 { wit with sp := 0xFF } = true ∧
    ok (pull (witNoStack.ticks 2)) = false := by decide +kernel

/-! ### Frames and whole-machine rules -/

theorem witness_OnlyListedRegistersChange :
    nexts false (exec (.lda (.imm 0xFF)) wit) = true ∧ Reg.x ∉ writtenRegs (.lda (.imm 0xFF)) := by decide +kernel

theorem witness_OnlyListedFlagsChange :
    nexts false (exec (.lda (.imm 0xFF)) wit) = true ∧ FlagName.c ∉ writtenFlags (.lda (.imm 0xFF)) := by decide +kernel

theorem witness_OnlyTheStoredBytesChange :
    (nexts false (exec (.lda (.zp 0x00 |> .mem)) wit) = true ∧ storesOf (.lda (.mem (.zp 0x00))) = .nothing) ∧
    (nexts false (exec (.sta (.abs 0x7FFF)) wit) = true ∧ storesOf (.sta (.abs 0x7FFF)) = .operand .write (.abs 0x7FFF) ∧
      addressOf .write (.abs 0x7FFF) wit = some 0x7FFF ∧ (0x0000 : Addr) ≠ 0x7FFF) ∧
    (nexts false (exec (.inc (.mem (.zp 0x00))) witHole) = true ∧
      storesOf (.inc (.mem (.zp 0x00))) = .operand .incDec (.zp 0x00) ∧
      ok (effectiveAddress .incDec (.zp 0x00) witHole) = false) ∧
    (nexts false (exec (.jsr 0x1234) wit) = true ∧ storesOf (.jsr 0x1234) = .stack 2 ∧
      ∀ j, j < 2 → (0x0100 : Addr) ≠ stackAddr (wit.sp - BitVec.ofNat 8 j)) := by decide +kernel

theorem witness_InstructionsLeaveHostStateAlone :
    (let s := { wit with pendingNmi := true, pendingIrq := true }
     nexts false (exec .nop s) = true ∧ Instr.nop ≠ .wai ∧ Instr.nop ≠ .stp ∧ s.pendingNmi = true ∧
     s.pendingIrq = true) := by decide +kernel

/-- The reset state is legal, and its step, BRK from the empty memory, is a next state without a fault. -/
theorem witness_StepKeepsLegalStates : State.reset.Inv ∧ (∃ t, step State.reset = .next t ∧ t.fault = none) :=
  ⟨⟨by decide, ⟨by decide, by decide, by decide⟩, ⟨by decide, by decide, by decide⟩, ⟨by decide, by decide, by decide⟩,
    by decide, ⟨by decide, by decide⟩, by decide, by decide, by decide⟩, nexts_iff.mp (by decide +kernel)⟩

theorem witness_HostEventsKeepLegalStates : State.reset.Inv := witness_StepKeepsLegalStates.1

/-- Two RAM banks; bank 0 is selected, the last byte of bank 1 is looked at. -/
theorem witness_StepNeverChangesRomOrOtherBanks :
    let s := { wit with cfg := { Cfg.default with ramBanks := 2 } }
    nexts true (step s) = true ∧ 1 ≠ s.ram.bank ∧ 0x7FFF < s.cfg.ramSize := by decide +kernel

theorem witness_CycleTableAgreesWithTheMeanings :
    (Instr.lda (.mem (.abx 0xFF01))).wellFormed .w65c02s = true ∧ wit.fault = none ∧
    nexts true (exec (.lda (.mem (.abx 0xFF01))) wit) = true := by decide +kernel

theorem witness_TraceReportsTheCyclesSpent : State.reset.Inv ∧ State.reset.fault = none ∧
    (∃ t, step State.reset = .next t ∧ t.fault = none) :=
  ⟨witness_StepKeepsLegalStates.1, rfl, witness_StepKeepsLegalStates.2⟩

/-! ### The bus, the clock and the devices -/

/-- R95 at both ends of every row, and the ends of every window of the general clause. -/
theorem witness_AddressesDecodeToTheirRegion :
    [0x0000, 0x7FFF, 0x8000, 0x8003, 0x8004, 0x800F, 0x8010, 0x801F, 0x8020, 0x802F, 0x8030, 0x8FFF, 0x9000, 0xBFFF, 0xC000,
      0xDFFF, 0xE000, 0xFFFF].map (target Cfg.default) =
    [.ram 0, .ram 0x7FFF, .acia 0, .acia 3, .hole, .hole, .via 0 0, .via 0 15, .via 1 0, .via 1 15, .hole, .hole,
      .fallback, .fallback, .brom 0, .brom 0x1FFF, .srom 0, .srom 0x1FFF] ∧
    (let c := { Cfg.default with vias := [⟨0x8FF0, .nmi⟩], ramSize := 0x4000 }
     c.wf = true ∧ [0x8003, 0x8FF0, 0x8FFF, 0xFFFF, 0xDFFF, 0x3FFF, 0x4000].map (target c) =
       [.acia 3, .via 0 0, .via 0 15, .srom 0x1FFF, .brom 0x1FFF, .ram 0x3FFF, .fallback]) := by decide +kernel

theorem witness_BusAccessesFollowTheMap :
    wit.memByte 0xFFFF = some 0xE2 ∧ (inRam wit.cfg 0x7FFF = true ∧ Memory.wf wit.ram.cells = true ∧
      (0x0000 : Addr) ≠ 0x7FFF) ∧ target wit.cfg 0xE000 = .srom 0 ∧ target wit.cfg 0xC000 = .brom 0 ∧
    target wit.cfg 0x8004 = .hole ∧ (target wit.cfg 0x9000 = .fallback ∧ wit.cfg.strictUnmapped = false) ∧
    (target witNoStack.cfg 0xBFFF = .fallback ∧ witNoStack.cfg.strictUnmapped = true) ∧
    (target wit.cfg 0x802F = .via 1 15 ∧ wit.tick.vias[1]? = some Via.reset) ∧
    (target wit.cfg 0x8000 = .acia 0 ∧ wit.acia.write 0 0x48 = .ok { Acia.powerOn with tx := [0x48] }) ∧
    (target wit.cfg 0x8003 = .acia 3 ∧ wit.acia.write 3 0x10 = .error (.configError .unsupportedBaud 0x10)) :=
  ⟨by decide +kernel, by decide +kernel, by decide +kernel, by decide +kernel, by decide +kernel, by decide +kernel,
    by decide +kernel, by decide +kernel, ⟨by decide +kernel, rfl⟩, ⟨by decide +kernel, rfl⟩⟩

theorem witness_CycleAccountingLaw :
    ok (busRead 0x0000 wit) = true ∧ ok (busRead 0x8004 wit) = false ∧ ok (busWrite 0x0000 0xFF wit) = true ∧
    ok (busWrite 0xE000 0xFF wit) = false ∧ ok (readNoCycle 0x0000 wit) = true ∧ ok (readNoCycle 0x8004 wit) = false ∧
    ok (writeNoCycle 0x0000 0xFF wit) = true ∧ ok (writeNoCycle 0xE000 0xFF wit) = false := by decide +kernel

theorem witness_TickClocksEveryViaOnce : wit.vias.length = wit.cfg.vias.length := by decide

/-- Both reload modes; every count of edges from 0 to the counter's value. -/
theorem witness_TimerOneFiresAfterVPlusOneEdges :
    ((witVia true false).t1Active = true ∧ 0 ≤ (witVia true false).t1c.toNat ∧ 2 ≤ (witVia true false).t1c.toNat ∧
      (witVia true false).ier.getLsbD 6 = true ∧ (witVia true false).t1FreeRunning = true) ∧
    ((witVia false false).t1Active = true ∧ (witVia false false).t1FreeRunning = false) := by decide

theorem witness_TimerTwoFiresAfterVPlusOneEdges :
    ((witVia false false).t2Active = true ∧ (witVia false false).t2CountsPulses = false ∧
      2 ≤ (witVia false false).t2c.toNat ∧ (witVia false false).ier.getLsbD 5 = true) ∧
    ((witVia false true).t2Active = true ∧ (witVia false true).t2CountsPulses = true) := by decide

theorem witness_RegisterAccessesNeverSetViaFlags :
    (({ Via.reset with ifr := 0x7F }.write 13 0x01).ifr.getLsbD 1 = true) ∧
    ({ Via.reset with ifr := 0x7F }.read 0).2.ifr.getLsbD 0 = true ∧
    (wit.vias[1]? = some Via.reset ∧ wit.cfg.vias[1]? = some ⟨0x8020, .irq⟩) := by decide

theorem witness_AcrIfrIerReadBack : 0 < 7 ∧ 6 < 7 ∧ 10 ∈ [10, 11, 12, 13, 14] ∧ 14 ∈ [10, 11, 12, 13, 14] := by decide

/-- Command and control values on both sides of each condition. -/
theorem witness_AciaRejectsParityAndExternalClock :
    target wit.cfg 0x8002 = .acia 2 ∧ bit 0x20 5 = true ∧ bit 0xDF 5 = false ∧
    target wit.cfg 0x8003 = .acia 3 ∧ (0xF0 : Byte).toNat % 16 = 0 ∧ (0x0F : Byte).toNat % 16 ≠ 0 := by decide +kernel

theorem witness_AciaReceiveBuffersOneByte :
    (hostAciaReceive wit 0x41).acia.rxFull = true ∧ wit.acia.rxFull = false ∧ bit wit.acia.cmd 1 = false ∧
    bit ({ wit with acia := { wit.acia with cmd := 0x02 } } : State).acia.cmd 1 = true := by decide +kernel

theorem witness_ResetRestoresPowerOnValues :
    wit.clearAll.memByte 0xFFFC = some 0x00 ∧ wit.clearAll.memByte 0xFFFD = some 0xE0 := by decide +kernel

/-- Maps whose vector page is a device hole, or no device in a strict build; an ill-formed and a well-formed map. -/
theorem witness_ResetWithoutVectorAndConstruction :
    (let c := { Cfg.default with sromSize := 0, devStart := 0xE000, devEnd := 0xFFFF, aciaBase := 0xE000, vias := [] }
     c.wf = true ∧ target c 0xFFFC = .hole) ∧
    (let c := { Cfg.default with sromSize := 0x1FFC, strictUnmapped := true }
     c.wf = true ∧ target c 0xFFFC = .fallback ∧ c.strictUnmapped = true) ∧
    ({ Cfg.default with ramSize := 0x8001 } : Cfg).wf = false ∧ Cfg.default.wf = true := by decide +kernel

/-- The last legal bank and the first illegal one, the longest legal image and the shortest illegal one. -/
theorem witness_LoadRomAndSelectBank :
    let s := { wit with cfg := { Cfg.default with bromBanks := 2, bromSize := 3 } }
    Memory.wf (s.rom .bankedRom).cells = true ∧ Memory.wf (s.rom .sharedRom).cells = true ∧
    (1 < RomDevice.bankedRom.totalBanks s.cfg ∧ ([1, 2, 3] : List Byte).length ≤ RomDevice.bankedRom.bankSize s.cfg) ∧
    RomDevice.bankedRom.totalBanks s.cfg ≤ 2 ∧
    (1 < RomDevice.bankedRom.totalBanks s.cfg ∧ RomDevice.bankedRom.bankSize s.cfg < ([1, 2, 3, 4] : List Byte).length) ∧
    ([1, 2, 3, 4, 5, 6] : List Byte).length ≤ RomDevice.bankedRom.totalBanks s.cfg * RomDevice.bankedRom.bankSize s.cfg ∧
    RomDevice.bankedRom.totalBanks s.cfg * RomDevice.bankedRom.bankSize s.cfg < ([1, 2, 3, 4, 5, 6, 7] : List Byte).length ∧
    (1 < s.cfg.bromBanks ∧ s.cfg.bromBanks ≤ 2) ∧ (0 < 1 ∧ 0 < s.cfg.ramBanks ∧ s.cfg.ramBanks ≤ 1) := by decide +kernel

end Sys2Proof.Tests
end

section
/-! Decoded instructions are instructions of the machine (R142, R146, R147): what a cell of the matrix makes of
its operand bytes, and that every term the decoder gives is well-formed at its level. -/

namespace Sys2Proof

/-- The instruction that a cell of opcode `op` names, with `l` and `h` as the operand bytes it takes. -/
def Entry.instr (op l h : Byte) : Entry → Instr
  | .illegal => .illegal op
  | .one i => i
  | .two f => f l
  | .three f => f (join h l)
  | .zpr f => f l h

/-- What is decoded is the instruction of the opcode's cell with some operand bytes. -/
theorem decode_instr {lvl : IsaLevel} {op : Byte} {bytes rest : List Byte} {i : Instr}
    (h : decode lvl (op :: bytes) = .ok (i, rest)) : ∃ b c, i = (entryAt lvl op).instr op b c := by
  simp only [decode] at h
  split at h <;> rename_i he <;> cases h <;> rw [he]
  · exact ⟨0, 0, rfl⟩
  · exact ⟨0, 0, rfl⟩
  · exact ⟨_, 0, rfl⟩
  · exact ⟨_, _, rfl⟩
  · exact ⟨_, _, rfl⟩

/-- The sixteen cells of a row name well-formed instructions whatever the operand bytes: each term evaluates. -/
theorem row_instr_wellFormed (lvl : IsaLevel) (b c : Byte) {r : Nat} (hr : r < 16) :
    (List.range 16).all (fun k =>
      let op := BitVec.ofNat 8 (16 * r + k)
      ((entryAt lvl op).instr op b c).wellFormed lvl) = true := by
  match r with
  | 0 | 1 | 2 | 3 | 4 | 5 | 6 | 7 | 8 | 9 | 10 | 11 | 12 | 13 | 14 | 15 => cases lvl <;> rfl
  | n + 16 => omega

/-- Every cell of the gated matrix names a well-formed instruction of the level. -/
theorem entryAt_instr_wellFormed (lvl : IsaLevel) (op b c : Byte) :
    ((entryAt lvl op).instr op b c).wellFormed lvl = true := by
  have hrow := row_instr_wellFormed lvl b c (r := op.toNat / 16) (by omega)
  have hcell := List.all_eq_true.mp hrow (op.toNat % 16) (List.mem_range.mpr (by omega))
  simpa [Nat.div_add_mod] using hcell

/-- Decoding gives only well-formed instructions of the level. -/
theorem decode_wellFormed {lvl : IsaLevel} {bytes rest : List Byte} {i : Instr}
    (h : decode lvl bytes = .ok (i, rest)) : i.wellFormed lvl = true := by
  cases bytes with
  | nil => cases h
  | cons op bytes =>
    obtain ⟨b, c, rfl⟩ := decode_instr h
    exact entryAt_instr_wellFormed lvl op b c

theorem levelHas_of_wellFormed {lvl : IsaLevel} {i : Instr} (h : i.wellFormed lvl = true) : levelHas lvl i = true := by
  simp only [Instr.wellFormed, Bool.and_eq_true] at h
  obtain ⟨⟨-, hlevel⟩, -⟩ := h
  exact hlevel

/-- Only the top level has WAI and STP (R147). -/
theorem topLevel_of_levelHas {lvl : IsaLevel} {i : Instr} (h : levelHas lvl i = true) (hi : i = .wai ∨ i = .stp) :
    lvl = .w65c02s := by
  cases lvl with
  | w65c02s => rfl
  | c02BitOps => rcases hi with rfl | rfl <;> cases h
  | c02Base => rcases hi with rfl | rfl <;> cases h

end Sys2Proof

namespace Sys2Proof.Machine

/-- The instruction that a step executes is one of the configured level. -/
theorem instrAt_levelHas (op : Byte) (s : State) : levelHas s.cfg.isaLevel (instrAt op s) = true := by
  unfold instrAt
  split
  · exact levelHas_of_wellFormed (decode_wellFormed ‹_›)
  · cases s.cfg.isaLevel <;> rfl

end Sys2Proof.Machine
end

section
/-! The invariant `State.Inv`, operation by operation: what it rests on, and that ticks, dispatched accesses and
writes of one field keep it. -/

namespace Sys2Proof

/-- A well-formed configuration has a bank of RAM and a bank of banked ROM (R5). -/
theorem Cfg.banks_pos {c : Cfg} (h : c.wf = true) : 0 < c.ramBanks ∧ 0 < c.bromBanks := by
  simp only [Cfg.wf, Bool.and_eq_true, decide_eq_true_eq] at h
  obtain ⟨⟨⟨-, hram⟩, hbrom⟩, -⟩ := h
  exact ⟨hram, hbrom⟩

end Sys2Proof

namespace Sys2Proof.Machine

theorem nextCycle_lt (c : Cfg) (n : Nat) : nextCycle c n < 2 ^ c.cycleBits := Nat.mod_lt _ (Nat.two_pow_pos _)

/-! ## Storage -/

/-- An offset inside a legal bank is an address inside the device. -/
theorem Bank.index_lt {b : Bank} {banks size o : Nat} (hb : b.bank < banks) (ho : o < size) :
    b.index size o < banks * size := by
  have hle : (b.bank + 1) * size ≤ banks * size := Nat.mul_le_mul_right size hb
  rw [Nat.succ_mul] at hle
  exact Nat.lt_of_lt_of_le (Nat.add_lt_add_left ho _) hle

theorem Bank.Ok.store {b : Bank} {banks size o : Nat} (h : b.Ok banks size) (ho : o < size) (v : Byte) :
    (b.store size o v).Ok banks size where
  canonical := Memory.write_wf _ v h.canonical
  inside := Memory.write_below v h.inside (Bank.index_lt h.bankLegal ho)
  bankLegal := h.bankLegal

theorem Bank.Ok.writeAll {b : Bank} {banks size a : Nat} {bytes : List Byte} (h : b.Ok banks size)
    (ha : a + bytes.length ≤ banks * size) :
    ({ b with cells := Memory.writeAll b.cells a bytes } : Bank).Ok banks size where
  canonical := Memory.writeAll_wf a bytes h.canonical
  inside := Memory.writeAll_below a bytes h.inside ha
  bankLegal := h.bankLegal

theorem Bank.Ok.select {b : Bank} {banks size n : Nat} (h : b.Ok banks size) (hn : n < banks) :
    ({ b with bank := n } : Bank).Ok banks size := ⟨h.canonical, h.inside, hn⟩

theorem Bank.ok_empty {banks size : Nat} (h : 0 < banks) : (⟨[], 0⟩ : Bank).Ok banks size := ⟨rfl, rfl, h⟩

/-! ## The ACIA -/

/-- The ACIA's invariant speaks of the command and control registers and the port alone. -/
theorem Acia.Ok.congr {d e : Acia} (h : d.Ok) (hcmd : e.cmd = d.cmd) (hctl : e.ctl = d.ctl) (hport : e.port = d.port) :
    e.Ok := ⟨by rw [hcmd]; exact h.parityOff, by rw [hport, hctl]; exact h.portOfCtl⟩

theorem Acia.Ok.read {d : Acia} (h : d.Ok) (r : Nat) : (d.read r).2.Ok := by
  unfold Acia.read
  split <;> exact h.congr rfl rfl rfl

/-- An accepted write keeps the invariant: a set parity bit and baud code 0 are rejected (R508, R509). -/
theorem Acia.Ok.write {d e : Acia} {r : Nat} {v : Byte} (h : d.Ok) (hw : d.write r v = .ok e) : e.Ok := by
  unfold Acia.write at hw
  split at hw
  · cases hw
    exact h.congr rfl rfl rfl
  · cases hw
    exact h
  · split at hw
    · cases hw
    · cases hw
      exact ⟨by simpa using ‹¬ bit v 5 = true›, h.portOfCtl⟩
  · split at hw
    · cases hw
    · cases hw
      exact ⟨h.parityOff, by simp [*]⟩

/-- Receiving a byte leaves the command and control registers and the port alone (R520). -/
theorem Acia.receive_registers (d : Acia) (b : Byte) :
    (d.receive b).1.cmd = d.cmd ∧ (d.receive b).1.ctl = d.ctl ∧ (d.receive b).1.port = d.port := by
  simp only [Acia.receive]
  split <;> split <;> exact ⟨rfl, rfl, rfl⟩

theorem Acia.Ok.receive {d : Acia} (h : d.Ok) (b : Byte) : (d.receive b).1.Ok :=
  have ⟨hcmd, hctl, hport⟩ := d.receive_registers b
  h.congr hcmd hctl hport

theorem Acia.reset_ok (d : Acia) : d.reset.Ok := ⟨by simp [Acia.reset, bit], rfl⟩

/-! ## The state -/

namespace State.Inv

variable {s t : State}

/-- What the clock and the devices may change of a legal state, as long as there are as many VIAs as before. -/
theorem of_still (h : s.Inv) (hs : t.still = s.still) (hv : t.vias.length = s.vias.length) (ha : t.acia.Ok)
    (hc : t.cycles < 2 ^ s.cfg.cycleBits) : t.Inv where
  cfgOk := by rw [cfg_of_still hs]; exact h.cfgOk
  ramOk := by rw [cfg_of_still hs, ram_of_still hs]; exact h.ramOk
  bromOk := by rw [cfg_of_still hs, brom_of_still hs]; exact h.bromOk
  sromOk := by rw [cfg_of_still hs, srom_of_still hs]; exact h.sromOk
  viaCount := by rw [cfg_of_still hs, hv]; exact h.viaCount
  aciaOk := ha
  cyclesFit := by rw [cfg_of_still hs]; exact hc
  breakClear := by rw [p_of_still hs]; exact h.breakClear
  modeLegal := by rw [cfg_of_still hs, mode_of_still hs]; exact h.modeLegal

theorem tick (h : s.Inv) : s.tick.Inv :=
  h.of_still s.tick_still s.tick_viaCount (by simpa using h.aciaOk) (by simpa using nextCycle_lt _ _)

theorem setA (h : s.Inv) (v : Byte) : (s.setA v).Inv := { h with }
theorem setX (h : s.Inv) (v : Byte) : (s.setX v).Inv := { h with }
theorem setY (h : s.Inv) (v : Byte) : (s.setY v).Inv := { h with }
theorem setSp (h : s.Inv) (v : Byte) : (s.setSp v).Inv := { h with }
theorem setPc (h : s.Inv) (v : Addr) : (s.setPc v).Inv := { h with }
theorem setDraws (h : s.Inv) (n : Nat) : (s.setDraws n).Inv := { h with }
theorem setRunning (h : s.Inv) (b : Bool) : (s.setRunning b).Inv := { h with }
theorem setPendingNmi (h : s.Inv) (b : Bool) : (s.setPendingNmi b).Inv := { h with }
theorem setPendingIrq (h : s.Inv) (b : Bool) : (s.setPendingIrq b).Inv := { h with }
theorem latch (h : s.Inv) (f : Fault) : (s.latch f).Inv := { h with }

theorem wake (h : s.Inv) : s.wake.Inv := { h with modeLegal := fun _ => rfl }

theorem setP (h : s.Inv) {p : Flags} (hb : p.b = s.p.b) : (s.setP p).Inv := { h with breakClear := hb.trans h.breakClear }

theorem setMode (h : s.Inv) (hl : s.cfg.isaLevel = .w65c02s) (m : Mode) : (s.setMode m).Inv :=
  { h with modeLegal := fun hn => absurd hl hn }

theorem setAcia (h : s.Inv) {d : Acia} (hd : d.Ok) : (s.setAcia d).Inv := { h with aciaOk := hd }

theorem setVias (h : s.Inv) {vs : List Via} (hv : vs.length = s.vias.length) : (s.setVias vs).Inv :=
  { h with viaCount := hv.trans h.viaCount }

theorem setRam (h : s.Inv) {b : Bank} (hb : b.Ok s.cfg.ramBanks s.cfg.ramSize) : (s.setRam b).Inv := { h with ramOk := hb }
theorem setBrom (h : s.Inv) {b : Bank} (hb : b.Ok s.cfg.bromBanks s.cfg.bromSize) : (s.setBrom b).Inv :=
  { h with bromOk := hb }
theorem setSrom (h : s.Inv) {b : Bank} (hb : b.Ok 1 s.cfg.sromSize) : (s.setSrom b).Inv := { h with sromOk := hb }

theorem viaRequest (h : s.Inv) (i : Nat) (q : Bool) : (s.viaRequest i q).Inv := by
  rcases s.viaRequest_cases i q with e | e | e <;> rw [e]
  · exact h
  · exact h.setPendingIrq true
  · exact h.setPendingNmi true

/-- A dispatched read changes at most the ACIA or a VIA. -/
theorem dispatchRead (h : s.Inv) (a : Addr) : (endState (dispatchRead a s)).Inv := by
  cases ht : target s.cfg a <;> simp only [Machine.dispatchRead, ht, endState_ok, endState_error]
  case acia r => exact h.setAcia (h.aciaOk.read r)
  case via i r => exact h.setVias List.length_set
  case fallback => split <;> exact h
  all_goals exact h

/-- A dispatched write changes at most the ACIA, a VIA, or the current bank of RAM. -/
theorem dispatchWrite (h : s.Inv) (a : Addr) (v : Byte) : (endState (dispatchWrite a v s)).Inv := by
  cases ht : target s.cfg a <;> simp only [Machine.dispatchWrite, ht, endState_ok, endState_error]
  case acia r =>
    split
    · exact h.setAcia (h.aciaOk.write ‹_›)
    · exact h
  case via i r => exact h.setVias List.length_set
  case ram o => exact h.setRam (h.ramOk.store (target_ram_lt ht) v)
  case fallback => split <;> exact h
  all_goals exact h

end State.Inv

end Sys2Proof.Machine
end

section
/-! The step keeps legal states. The relation is `KeepsLegal lvl`, "a legal state of level `lvl` leads to one": the level
stands in it because WAI and STP may set the mode at the top level only, and no other level decodes them. -/

namespace Sys2Proof.Machine

/-- A legal state of a machine of the level. -/
def State.LegalAt (lvl : IsaLevel) (s : State) : Prop := s.Inv ∧ s.cfg.isaLevel = lvl

/-- A legal state of the level leads to a legal state of the level. -/
def KeepsLegal (lvl : IsaLevel) (s t : State) : Prop := s.LegalAt lvl → t.LegalAt lvl

/-- Keeping `Inv` and the configuration is keeping `LegalAt`. -/
theorem KeepsLegal.intro {lvl : IsaLevel} {s t : State} (hc : t.cfg = s.cfg) (hi : s.Inv → t.Inv) : KeepsLegal lvl s t :=
  fun ⟨h, hl⟩ => ⟨hi h, by rw [hc, hl]⟩

theorem busFrame_keepsLegal (lvl : IsaLevel) : BusFrame (KeepsLegal lvl) where
  refl _ := id
  trans _ _ _ h h' := h' ∘ h
  tick s := .intro s.tick_cfg .tick
  read a s := .intro (State.cfg_of_still (dispatchRead_still a s)) (·.dispatchRead a)
  setPc _ v := .intro rfl (·.setPc v)
  write a v s := .intro (dispatchWrite_cfg a v s) (·.dispatchWrite a v)

theorem stepFrame_keepsLegal (lvl : IsaLevel) : StepFrame (KeepsLegal lvl) where
  toBusFrame := busFrame_keepsLegal lvl
  setSp _ v := .intro rfl (·.setSp v)
  enterP _ := .intro rfl (·.setP rfl)
  clearNmi _ := .intro rfl (·.setPendingNmi false)
  clearIrq _ := .intro rfl (·.setPendingIrq false)
  wake _ := .intro rfl .wake
  latch _ f := .intro rfl (·.latch f)

/-- No instruction writes the stored B (R25). -/
theorem break_notMem_writtenFlags (i : Instr) : FlagName.b ∉ writtenFlags i := by
  cases i with
  | bit o => cases o <;> exact of_decide_eq_false rfl
  | _ => exact of_decide_eq_false rfl

/-- An instruction that the level has keeps its legal states. -/
theorem instrFrame_keepsLegal {lvl : IsaLevel} {i : Instr} (hi : levelHas lvl i = true) : InstrFrame (KeepsLegal lvl) i where
  toReadFrame := (busFrame_keepsLegal lvl).toReadFrame
  write _ := (busFrame_keepsLegal lvl).write
  setA _ _ v := .intro rfl (·.setA v)
  setX _ _ v := .intro rfl (·.setX v)
  setY _ _ v := .intro rfl (·.setY v)
  setSp _ _ v := .intro rfl (·.setSp v)
  setP _ _ hq := .intro rfl (·.setP (hq .b (break_notMem_writtenFlags i)))
  setMode hm _ m := fun ⟨h, hl⟩ => ⟨h.setMode (hl.trans (topLevel_of_levelHas hi hm)) m, hl⟩
  setDraws _ n := .intro rfl (·.setDraws n)

/-- The instruction of a step keeps legal states. -/
theorem exec_instrAt_keepsLegal {lvl : IsaLevel} (op : Byte) {s t : State} (e : exec (instrAt op s) s = .next t) :
    KeepsLegal lvl s t := fun h =>
  have hi : levelHas lvl (instrAt op s) = true := h.2 ▸ instrAt_levelHas op s
  exec_frame (instrFrame_keepsLegal hi) (stepFrame_keepsLegal lvl).latch e h

/-- Settles O40: ticks, bus accesses, interrupt entry and the decoded instruction each keep the invariant. -/
theorem stepKeepsLegalStates : Obligations.StepKeepsLegalStates := fun s _ h e =>
  ((stepFrame_keepsLegal s.cfg.isaLevel).step_frame (fun op _ _ => exec_instrAt_keepsLegal op) e ⟨h, rfl⟩).1

end Sys2Proof.Machine
end

section
/-! The host events keep legal states. -/

namespace Sys2Proof.Machine

/-- Every assignment of `reset()` before the vector read leads to a legal state. -/
theorem State.Inv.clearAll {s : State} (h : s.Inv) : s.clearAll.Inv where
  cfgOk := h.cfgOk
  ramOk := Bank.ok_empty (Cfg.banks_pos h.cfgOk).1
  bromOk := h.bromOk.select (Cfg.banks_pos h.cfgOk).2
  sromOk := h.sromOk.select Nat.one_pos
  viaCount := (List.length_map _).trans h.viaCount
  aciaOk := s.acia.reset_ok
  cyclesFit := Nat.two_pow_pos _
  breakClear := rfl
  modeLegal _ := rfl

/-- The vector read of `reset()` is two dispatched reads and a write of PC. -/
theorem loadResetVector_keepsLegal (lvl : IsaLevel) : Always (KeepsLegal lvl) loadResetVector :=
  have hB := busFrame_keepsLegal lvl
  hB.bind (hB.read _) fun _ => hB.bind (hB.read _) fun _ => Sequencing.update fun s => hB.setPc s _

theorem State.Inv.resetMachine {s : State} (h : s.Inv) : (resetMachine s).Inv := by
  have hv := loadResetVector_keepsLegal s.cfg.isaLevel
  unfold Machine.resetMachine
  split
  · exact (hv.ok ‹_› ⟨h.clearAll, rfl⟩).1
  · exact (hv.error ‹_› ⟨h.clearAll, rfl⟩).1.latch _

/-- An operation that may be rejected keeps legal states if its accepted outcome is legal (R415). -/
theorem State.Inv.orUnchanged {s : State} (h : s.Inv) {r : Except Fault State} (hr : ∀ t, r = .ok t → t.Inv) :
    (s.orUnchanged r).Inv := by
  cases r with
  | ok t => exact hr t rfl
  | error f => exact h

/-! ## Cycle-free accesses -/

theorem hostReadMemory_inv {s t : State} {a : Addr} {v : Byte} (h : s.Inv) (e : hostReadMemory s a = .ok (v, t)) : t.Inv := by
  unfold hostReadMemory readNoCycle at e
  have hd := h.dispatchRead a
  split at e <;> cases e
  simpa [*] using hd

theorem hostWriteMemory_inv {s t : State} {a : Addr} {v : Byte} (h : s.Inv) (e : hostWriteMemory s a v = .ok t) : t.Inv := by
  unfold hostWriteMemory writeNoCycle at e
  have hd := h.dispatchWrite a v
  split at e <;> cases e
  simpa [*] using hd

/-! ## Images and banks -/

theorem State.Inv.romOk {s : State} (h : s.Inv) (d : RomDevice) : (s.rom d).Ok (d.totalBanks s.cfg) (d.bankSize s.cfg) := by
  cases d with
  | bankedRom => exact h.bromOk
  | sharedRom => exact h.sromOk

theorem State.Inv.setRom {s : State} (h : s.Inv) (d : RomDevice) {b : Bank}
    (hb : b.Ok (d.totalBanks s.cfg) (d.bankSize s.cfg)) : (s.setRom d b).Inv := by
  cases d with
  | bankedRom => exact h.setBrom hb
  | sharedRom => exact h.setSrom hb

/-- The leading bytes of a legal bank lie inside the device. -/
theorem hostLoadRom_inv {s t : State} {d : RomDevice} {bank : Nat} {bytes : List Byte} (h : s.Inv)
    (e : hostLoadRom s d bank bytes = .ok t) : t.Inv := by
  unfold hostLoadRom at e
  split at e
  · cases e
  · split at e <;> cases e
    refine h.setRom d ((h.romOk d).writeAll ?_)
    have hle : (bank + 1) * d.bankSize s.cfg ≤ d.totalBanks s.cfg * d.bankSize s.cfg :=
      Nat.mul_le_mul_right _ (by omega)
    rw [Nat.succ_mul] at hle
    omega

theorem hostLoadFlat_inv {s t : State} {d : RomDevice} {image : List Byte} (h : s.Inv)
    (e : hostLoadFlat s d image = .ok t) : t.Inv := by
  unfold hostLoadFlat at e
  split at e <;> cases e
  exact h.setRom d ((h.romOk d).writeAll (by omega))

theorem hostLoadJagged_inv {s t : State} {d : RomDevice} {k : Nat} {image : List (List Byte)} (h : s.Inv)
    (e : hostLoadJagged s d k image = .ok t) : t.Inv := by
  induction image generalizing s k with
  | nil => cases e; exact h
  | cons bytes rest ih =>
    unfold hostLoadJagged at e
    split at e
    · exact ih (hostLoadRom_inv h ‹_›) e
    · cases e

theorem hostSelectBank_inv {s t : State} {d : BankDevice} {n : Nat} (h : s.Inv) (e : hostSelectBank s d n = .ok t) :
    t.Inv := by
  unfold hostSelectBank at e
  split at e <;> cases e
  have hn : n < d.totalBanks s.cfg := by omega
  cases d with
  | bankedRom => exact h.setBrom (h.bromOk.select hn)
  | sharedRom => exact h.setSrom (h.sromOk.select hn)
  | ram => exact h.setRam (h.ramOk.select hn)

/-! ## Devices -/

theorem hostAciaReceive_inv {s : State} (h : s.Inv) (b : Byte) : (hostAciaReceive s b).Inv := by
  have hd := h.setAcia (h.aciaOk.receive b)
  simp only [hostAciaReceive]
  split
  · exact hd.setPendingIrq true
  · exact hd

theorem hostViaControlEdge_inv {s : State} (h : s.Inv) (i : Nat) (l : ControlLine) : (hostViaControlEdge s i l).Inv := by
  unfold hostViaControlEdge
  split
  · exact h
  · exact (h.setVias List.length_set).viaRequest i _

/-- Settles O41: event by event; a rejected operation leaves the state as it is. -/
theorem hostEventsKeepLegalStates : Obligations.HostEventsKeepLegalStates := by
  intro s e h
  cases e with
  | reset => exact h.resetMachine
  | setRunning b => exact h.setRunning b
  | readMemory a =>
    refine h.orUnchanged fun t e => ?_
    cases hr : hostReadMemory s a with
    | ok r => rw [hr] at e; cases e; exact hostReadMemory_inv h hr
    | error f => rw [hr] at e; cases e
  | writeMemory a v => exact h.orUnchanged fun _ => hostWriteMemory_inv h
  | requestInterrupt => exact h.setPendingIrq true
  | triggerNmi => exact h.setPendingNmi true
  | loadRom d bank bytes => exact h.orUnchanged fun _ => hostLoadRom_inv h
  | loadFlat d image => exact h.orUnchanged fun _ => hostLoadFlat_inv h
  | loadJagged d image => exact h.orUnchanged fun _ => hostLoadJagged_inv h
  | selectBank d n => exact h.orUnchanged fun _ => hostSelectBank_inv h
  | aciaReceive b => exact hostAciaReceive_inv h b
  | aciaSetLines dsr dcd => exact h.setAcia (h.aciaOk.congr rfl rfl rfl)
  | drainTx n => exact h.setAcia (h.aciaOk.congr rfl rfl rfl)
  | viaControlEdge i l => exact hostViaControlEdge_inv h i l

end Sys2Proof.Machine
end

section
/-! What no step changes on the host's side of the machine (R27, R111, R114, R117, R506, R521): the configuration,
`running`, ROM, the bank pointers, the RAM banks not selected, the ACIA's lines; TX only grows. -/

namespace Sys2Proof.Machine

/-- Offsets of different banks are different bank-major addresses (R113). -/
theorem bankMajor_ne {size b b' o o' : Nat} (ho : o < size) (ho' : o' < size) (hb : b ≠ b') :
    b * size + o ≠ b' * size + o' := by
  intro e
  have hq := congrArg (· / size) e
  simp only [Nat.mul_comm _ size, Nat.mul_add_div (Nat.zero_lt_of_lt ho), Nat.div_eq_of_lt ho, Nat.div_eq_of_lt ho',
    Nat.add_zero] at hq
  exact hb hq

/-- Storing in the current bank leaves the bytes of every other bank alone (R117). -/
theorem Bank.read_store_other {b : Bank} {size o bank o' : Nat} (v : Byte) (ho : o < size) (ho' : o' < size)
    (hb : bank ≠ b.bank) :
    Memory.read (b.store size o v).cells (bank * size + o') = Memory.read b.cells (bank * size + o') :=
  Memory.read_write_other v (bankMajor_ne ho' ho hb)

/-- The fields that `HostKept` speaks of. -/
def State.hostSide (s : State) : Cfg × Bool × Bank × Bank × Bank × Acia :=
  (s.cfg, s.running, s.brom, s.srom, s.ram, s.acia)

/-- What instructions and interrupt entries leave alone on the host's side: the current bank of RAM and the ACIA's
registers may change, and TX may grow. -/
structure HostKept (s t : State) : Prop where
  cfg : t.cfg = s.cfg
  running : t.running = s.running
  brom : t.brom = s.brom
  srom : t.srom = s.srom
  bank : t.ram.bank = s.ram.bank
  otherBanks : ∀ bank o, bank ≠ s.ram.bank → o < s.cfg.ramSize →
    Memory.read t.ram.cells (bank * s.cfg.ramSize + o) = Memory.read s.ram.cells (bank * s.cfg.ramSize + o)
  dsr : t.acia.dsrAsserted = s.acia.dsrAsserted
  dcd : t.acia.dcdAsserted = s.acia.dcdAsserted
  tx : s.acia.tx <+: t.acia.tx

namespace HostKept

variable {s t u : State}

theorem of_hostSide (h : t.hostSide = s.hostSide) : HostKept s t := by
  simp only [State.hostSide, Prod.mk.injEq] at h
  obtain ⟨hcfg, hrunning, hbrom, hsrom, hram, hacia⟩ := h
  exact ⟨hcfg, hrunning, hbrom, hsrom, congrArg Bank.bank hram, fun _ _ _ _ => by rw [hram],
    congrArg Acia.dsrAsserted hacia, congrArg Acia.dcdAsserted hacia, hacia ▸ List.prefix_rfl⟩

theorem trans (h : HostKept s t) (h' : HostKept t u) : HostKept s u where
  cfg := h'.cfg.trans h.cfg
  running := h'.running.trans h.running
  brom := h'.brom.trans h.brom
  srom := h'.srom.trans h.srom
  bank := h'.bank.trans h.bank
  otherBanks bank o hb ho := by
    have h'' := h'.otherBanks bank o (by rwa [h.bank]) (by rwa [h.cfg])
    rw [h.cfg] at h''
    exact h''.trans (h.otherBanks bank o hb ho)
  dsr := h'.dsr.trans h.dsr
  dcd := h'.dcd.trans h.dcd
  tx := h.tx.trans h'.tx

theorem setAcia {d : Acia} (hdsr : d.dsrAsserted = s.acia.dsrAsserted) (hdcd : d.dcdAsserted = s.acia.dcdAsserted)
    (htx : s.acia.tx <+: d.tx) : HostKept s (s.setAcia d) :=
  ⟨rfl, rfl, rfl, rfl, rfl, fun _ _ _ _ => rfl, hdsr, hdcd, htx⟩

theorem storeRam {o : Nat} (ho : o < s.cfg.ramSize) (v : Byte) :
    HostKept s (s.setRam (s.ram.store s.cfg.ramSize o v)) :=
  { of_hostSide (rfl : s.hostSide = s.hostSide) with
    otherBanks := fun _ _ hb ho' => Bank.read_store_other v ho ho' hb }

theorem dispatchRead (a : Addr) (s : State) : HostKept s (endState (dispatchRead a s)) := by
  cases ht : target s.cfg a <;> simp only [Machine.dispatchRead, ht, endState_ok, endState_error]
  case acia r =>
    obtain ⟨hdsr, hdcd, htx⟩ := s.acia.read_keeps r
    exact .setAcia hdsr hdcd (htx ▸ List.prefix_rfl)
  case fallback => split <;> exact .of_hostSide rfl
  all_goals exact .of_hostSide rfl

theorem dispatchWrite (a : Addr) (v : Byte) (s : State) : HostKept s (endState (dispatchWrite a v s)) := by
  cases ht : target s.cfg a <;> simp only [Machine.dispatchWrite, ht, endState_ok, endState_error]
  case acia r =>
    split
    · obtain ⟨hdsr, hdcd, htx⟩ := Acia.write_keeps ‹_›
      exact .setAcia hdsr hdcd htx
    · exact .of_hostSide rfl
  case ram o => exact .storeRam (target_ram_lt ht) v
  case fallback => split <;> exact .of_hostSide rfl
  all_goals exact .of_hostSide rfl

end HostKept

theorem stepFrame_hostKept : StepFrame HostKept where
  refl _ := .of_hostSide rfl
  trans _ _ _ := .trans
  tick s := .of_hostSide (by simp [State.hostSide])
  read := .dispatchRead
  setPc _ _ := .of_hostSide rfl
  write := .dispatchWrite
  setSp _ _ := .of_hostSide rfl
  enterP _ := .of_hostSide rfl
  clearNmi _ := .of_hostSide rfl
  clearIrq _ := .of_hostSide rfl
  wake _ := .of_hostSide rfl
  latch _ _ := .of_hostSide rfl

theorem instrFrame_hostKept (i : Instr) : InstrFrame HostKept i where
  toReadFrame := stepFrame_hostKept.toReadFrame
  write _ := stepFrame_hostKept.write
  setA _ _ _ := .of_hostSide rfl
  setX _ _ _ := .of_hostSide rfl
  setY _ _ _ := .of_hostSide rfl
  setSp _ _ _ := .of_hostSide rfl
  setP _ _ _ := .of_hostSide rfl
  setMode _ _ _ := .of_hostSide rfl
  setDraws _ _ := .of_hostSide rfl

/-- No instruction changes the host's side of the machine, faulting or not. -/
theorem exec_hostKept {i : Instr} {s t : State} (e : exec i s = .next t) : HostKept s t :=
  exec_frame (instrFrame_hostKept i) stepFrame_hostKept.latch e

/-- No step does, interrupt entry included. -/
theorem step_hostKept {s t : State} (e : step s = .next t) : HostKept s t :=
  stepFrame_hostKept.step_frame (fun _ _ _ => exec_hostKept) e

/-- Settles O42: bus accesses, interrupt entry and every instruction keep the host's side of the machine; a store to RAM
goes to the current bank alone. -/
theorem stepNeverChangesRomOrOtherBanks : Obligations.StepNeverChangesRomOrOtherBanks := fun _ _ e =>
  have h := step_hostKept e
  ⟨h.cfg, h.brom, h.srom, h.bank, h.running, h.dsr, h.dcd, h.tx, h.otherBanks⟩

end Sys2Proof.Machine
end

section
/-! What an instruction changes of registers, flags, mode and pending latches (R23, R24, R28, R29): each a relation that
ticks, bus accesses and changes of PC keep, and that the instruction's own writes keep outside its lists. -/

namespace Sys2Proof.Machine

/-- A dispatched write keeps whatever depends neither on the clock and the devices nor on RAM. -/
theorem dispatchWrite_keeps {γ : Type} (f : State → γ) (hs : ∀ s t : State, t.still = s.still → f t = f s)
    (hr : ∀ (s : State) b, f (s.setRam b) = f s) (a : Addr) (v : Byte) (s : State) :
    f (endState (dispatchWrite a v s)) = f s := by
  rcases dispatchWrite_cases a v s with ⟨o, -, e⟩ | ⟨-, e⟩
  · rw [e, endState_ok, hr]
  · exact hs _ _ e

/-! ## Registers -/

theorem State.reg_of_still {s t : State} (h : t.still = s.still) (r : Reg) : t.reg r = s.reg r := by
  cases r with
  | a => exact a_of_still h
  | x => exact x_of_still h
  | y => exact y_of_still h
  | sp => exact sp_of_still h

theorem State.reg_setA {r : Reg} (hr : r ≠ .a) (s : State) (v : Byte) : (s.setA v).reg r = s.reg r := by
  cases r with
  | a => exact absurd rfl hr
  | x | y | sp => rfl

theorem State.reg_setX {r : Reg} (hr : r ≠ .x) (s : State) (v : Byte) : (s.setX v).reg r = s.reg r := by
  cases r with
  | x => exact absurd rfl hr
  | a | y | sp => rfl

theorem State.reg_setY {r : Reg} (hr : r ≠ .y) (s : State) (v : Byte) : (s.setY v).reg r = s.reg r := by
  cases r with
  | y => exact absurd rfl hr
  | a | x | sp => rfl

theorem State.reg_setSp {r : Reg} (hr : r ≠ .sp) (s : State) (v : Byte) : (s.setSp v).reg r = s.reg r := by
  cases r with
  | sp => exact absurd rfl hr
  | a | x | y => rfl

/-- Register `r` holds what it held. -/
def RegKept (r : Reg) (s t : State) : Prop := t.reg r = s.reg r

/-- An instruction keeps each register that is not in its list (R23). -/
theorem instrFrame_regKept {i : Instr} {r : Reg} (hr : r ∉ writtenRegs i) : InstrFrame (RegKept r) i where
  refl _ := rfl
  trans _ _ _ h h' := Eq.trans h' h
  tick s := State.reg_of_still s.tick_still r
  read a s := State.reg_of_still (dispatchRead_still a s) r
  setPc _ _ := by cases r <;> rfl
  write _ := dispatchWrite_keeps (State.reg · r) (fun _ _ h => State.reg_of_still h r) fun _ _ => by cases r <;> rfl
  setA h := State.reg_setA (ne_of_mem_of_not_mem h hr).symm
  setX h := State.reg_setX (ne_of_mem_of_not_mem h hr).symm
  setY h := State.reg_setY (ne_of_mem_of_not_mem h hr).symm
  setSp h := State.reg_setSp (ne_of_mem_of_not_mem h hr).symm
  setP _ _ _ := by cases r <;> rfl
  setMode _ _ _ := by cases r <;> rfl
  setDraws _ _ := by cases r <;> rfl

/-- Settles O35: the only writes of a register are those of the registers that the instruction's list has. -/
theorem onlyListedRegistersChange : Obligations.OnlyListedRegistersChange := fun _ _ _ r e hr =>
  exec_frame (instrFrame_regKept hr) (fun _ _ => by cases r <;> rfl) e

/-! ## Flags -/

/-- The flags that instruction `i` does not write are what they were. -/
def FlagsKept (i : Instr) (s t : State) : Prop := KeepsFlags i s.p t.p

theorem FlagsKept.of_p {i : Instr} {s t : State} (h : t.p = s.p) : FlagsKept i s t := fun _ _ => by rw [h]

/-- An instruction keeps each flag that is not in its list (R24). -/
theorem instrFrame_flagsKept (i : Instr) : InstrFrame (FlagsKept i) i where
  refl _ := .of_p rfl
  trans _ _ _ h h' f hf := (h' f hf).trans (h f hf)
  tick s := .of_p s.tick_p
  read a s := .of_p (State.p_of_still (dispatchRead_still a s))
  setPc _ _ := .of_p rfl
  write _ a v s := .of_p (dispatchWrite_keeps State.p (fun _ _ => State.p_of_still) (fun _ _ => rfl) a v s)
  setA _ _ _ := .of_p rfl
  setX _ _ _ := .of_p rfl
  setY _ _ _ := .of_p rfl
  setSp _ _ _ := .of_p rfl
  setP _ _ h := h
  setMode _ _ _ := .of_p rfl
  setDraws _ _ := .of_p rfl

/-- Settles O36: what an instruction makes of the status keeps the flags outside its list. -/
theorem onlyListedFlagsChange : Obligations.OnlyListedFlagsChange := fun i _ _ f e hf =>
  exec_frame (instrFrame_flagsKept i) (fun _ _ => .of_p rfl) e f hf

/-! ## Mode and pending latches -/

/-- What instruction `i` may do to the mode (R29) and to the pending latches (R28). -/
structure LatchesKept (i : Instr) (s t : State) : Prop where
  mode : i ≠ .wai → i ≠ .stp → t.mode = s.mode
  nmi : s.pendingNmi = true → t.pendingNmi = true
  irq : s.pendingIrq = true → t.pendingIrq = true

theorem LatchesKept.of_eq {i : Instr} {s t : State} (hm : t.mode = s.mode)
    (hp : t.pendingNmi = s.pendingNmi ∧ t.pendingIrq = s.pendingIrq) : LatchesKept i s t :=
  ⟨fun _ _ => hm, fun h => hp.1.trans h, fun h => hp.2.trans h⟩

/-- No instruction takes a pending interrupt back, and none but WAI and STP changes the mode. -/
theorem instrFrame_latchesKept (i : Instr) : InstrFrame (LatchesKept i) i where
  refl _ := .of_eq rfl ⟨rfl, rfl⟩
  trans _ _ _ h h' :=
    ⟨fun hw hs => (h'.mode hw hs).trans (h.mode hw hs), h'.nmi ∘ h.nmi, h'.irq ∘ h.irq⟩
  tick s := ⟨fun _ _ => s.tick_mode, s.tick_pendingNmi, s.tick_pendingIrq⟩
  read a s := .of_eq (State.mode_of_still (dispatchRead_still a s)) (dispatchRead_pending a s)
  setPc _ _ := .of_eq rfl ⟨rfl, rfl⟩
  write _ a v s := .of_eq (dispatchWrite_keeps State.mode (fun _ _ => State.mode_of_still) (fun _ _ => rfl) a v s)
    (dispatchWrite_pending a v s)
  setA _ _ _ := .of_eq rfl ⟨rfl, rfl⟩
  setX _ _ _ := .of_eq rfl ⟨rfl, rfl⟩
  setY _ _ _ := .of_eq rfl ⟨rfl, rfl⟩
  setSp _ _ _ := .of_eq rfl ⟨rfl, rfl⟩
  setP _ _ _ := .of_eq rfl ⟨rfl, rfl⟩
  setMode h _ _ := ⟨fun hw hs => absurd h (not_or.mpr ⟨hw, hs⟩), id, id⟩
  setDraws _ _ := .of_eq rfl ⟨rfl, rfl⟩

/-- Settles O38: the host's side as in O42, the mode and the latches by their own frame. -/
theorem instructionsLeaveHostStateAlone : Obligations.InstructionsLeaveHostStateAlone := fun i _ _ e =>
  have h := exec_hostKept e
  have hl := exec_frame (instrFrame_latchesKept i) (fun _ _ => .of_eq rfl ⟨rfl, rfl⟩) e
  ⟨h.cfg, h.running, h.brom, h.srom, h.bank, h.dsr, h.dcd, hl.mode, hl.nmi, hl.irq, h.tx⟩

end Sys2Proof.Machine
end

section
/-! The VIA's interrupt flags: a register access only clears them, a control edge sets its own (R36, R456, R485). -/

namespace Sys2Proof.Machine

/-- Every flag set in `w` is set in `v`. -/
def Via.FlagsWithin (v w : Via) : Prop := ∀ n, w.ifr.getLsbD n = true → v.ifr.getLsbD n = true

namespace Via.FlagsWithin

variable {v w : Via}

theorem of_ifr (h : w.ifr = v.ifr) : v.FlagsWithin w := fun _ hn => h ▸ hn

/-- Masking clears flags and sets none. -/
theorem of_mask {m : BitVec 7} (h : w.ifr = v.ifr &&& m) : v.FlagsWithin w := fun n hn => by
  rw [h, BitVec.getLsbD_and, Bool.and_eq_true] at hn
  exact hn.1

theorem clearFlag (h : v.FlagsWithin w) (m : Nat) : v.FlagsWithin (w.clearFlag m) :=
  fun n hn => h n (of_mask (v := w) rfl n hn)

theorem ackA (h : v.FlagsWithin w) : v.FlagsWithin w.ackA := by
  unfold Via.ackA
  split
  · exact h.clearFlag _
  · exact (h.clearFlag _).clearFlag _

theorem ackB (h : v.FlagsWithin w) : v.FlagsWithin w.ackB := by
  unfold Via.ackB
  split
  · exact h.clearFlag _
  · exact (h.clearFlag _).clearFlag _

theorem ackT1 (h : v.FlagsWithin w) : v.FlagsWithin w.ackT1 := by
  unfold Via.ackT1
  split
  · exact h
  · exact h.clearFlag _

theorem ackT2 (h : v.FlagsWithin w) : v.FlagsWithin w.ackT2 := by
  unfold Via.ackT2
  split
  · exact h
  · exact h.clearFlag _

/-- An IER write leaves IFR alone, whether it sets or clears (R474). -/
theorem setIer (v : Via) (x : Byte) : v.FlagsWithin (v.setIer x) := by
  unfold Via.setIer
  split <;> exact of_ifr rfl

/-- A read clears the flags its register acknowledges, if any (R459 to R467). -/
theorem read (v : Via) : ∀ r, v.FlagsWithin (v.read r).2
  | 0 => ackB (of_ifr rfl)
  | 1 => ackA (of_ifr rfl)
  | 4 => ackT1 (of_ifr rfl)
  | 8 => ackT2 (of_ifr rfl)
  | 2 | 3 | 5 | 6 | 7 | 9 | 10 | 11 | 12 | 13 | 14 | _ + 15 => of_ifr rfl

/-- A write clears the flags its register acknowledges, or those an IFR write names (R459 to R472). -/
theorem write (v : Via) (x : Byte) : ∀ r, v.FlagsWithin (v.write r x)
  | 0 => ackB (of_ifr rfl)
  | 1 => ackA (of_ifr rfl)
  | 5 | 9 => clearFlag (of_ifr rfl) _
  | 13 => of_mask rfl
  | 14 => setIer v x
  | 2 | 3 | 4 | 6 | 7 | 8 | 10 | 11 | 12 | _ + 15 => of_ifr rfl

end Via.FlagsWithin

/-- A request latches the pending interrupt of the VIA's line, when it is made (R418, R456). -/
theorem State.viaRequest_slot {s : State} {i : Nat} {slot : ViaSlot} (h : s.cfg.vias[i]? = some slot) (q : Bool) :
    s.viaRequest i q = { s with
      pendingIrq := s.pendingIrq || (q && decide (slot.line = .irq))
      pendingNmi := s.pendingNmi || (q && decide (slot.line = .nmi)) } := by
  cases q
  · simp [viaRequest]
  · simp only [viaRequest, if_true, h]
    cases slot.line <;> simp [request, setPendingIrq, setPendingNmi]

/-- A control line's flag is one of the seven of IFR (R455, R485). -/
theorem ControlLine.flag_lt (l : ControlLine) : l.flag < 7 := by cases l <;> decide

/-- A control edge sets its line's flag in IFR and makes the VIA's request if that flag is enabled (R485). -/
theorem hostViaControlEdge_slot {s : State} {i : Nat} {v : Via} {slot : ViaSlot} (l : ControlLine)
    (hv : s.vias[i]? = some v) (hs : s.cfg.vias[i]? = some slot) :
    hostViaControlEdge s i l = { s with
      vias := s.vias.set i { v with ifr := (v.setFlag l.flag).1.ifr }
      pendingIrq := s.pendingIrq || (v.ier.getLsbD l.flag && decide (slot.line = .irq))
      pendingNmi := s.pendingNmi || (v.ier.getLsbD l.flag && decide (slot.line = .nmi)) } := by
  simp only [hostViaControlEdge, hv]
  exact State.viaRequest_slot (s := s.setVias (s.vias.set i (v.setFlag l.flag).1)) hs _

/-- Settles O51: register by register for the accesses; an edge is `SetFlag` of the line's flag. -/
theorem registerAccessesNeverSetViaFlags : Obligations.RegisterAccessesNeverSetViaFlags := by
  refine ⟨fun v r x n => ⟨Via.FlagsWithin.write v x r n, Via.FlagsWithin.read v r n⟩, ?_⟩
  intro s i v slot l hv hs n
  have hn : n = l.flag := by cases l <;> rfl
  rw [hn]
  exact ⟨_, fun m => v.setFlag_ifr _ m l.flag_lt, hostViaControlEdge_slot l hv hs⟩

end Sys2Proof.Machine
end

section
/-! Reset: what it makes of any state whose vector is in memory, and that the reset state is legal (R38, R540 to
R544). -/

namespace Sys2Proof.Machine

/-- The vector read from memory loads PC and does nothing else (R542). -/
theorem loadResetVector_memByte {s : State} {l h : Byte} (hl : s.memByte vecReset = some l)
    (hh : s.memByte (vecReset + 1) = some h) : loadResetVector s = .ok () (s.setPc (join h l)) := by
  simp only [loadResetVector, readNoCycle, bind_apply, dispatchRead_memByte hl, dispatchRead_memByte hh, update_apply]

/-- Reset with its vector in memory: every assignment before the vector read, then PC. -/
theorem resetMachine_memByte {s : State} {l h : Byte} (hl : s.clearAll.memByte vecReset = some l)
    (hh : s.clearAll.memByte (vecReset + 1) = some h) : resetMachine s = s.clearAll.setPc (join h l) := by
  simp only [resetMachine, loadResetVector_memByte hl hh]

/-- Settles O58: the assignments before the vector read give every value but PC. -/
theorem resetRestoresPowerOnValues : Obligations.ResetRestoresPowerOnValues := by
  intro s l h hl hh
  rw [resetMachine_memByte hl hh]
  refine ⟨join_toNat h l, rfl, rfl, rfl, rfl, rfl, rfl, rfl, rfl, rfl, rfl, rfl, rfl, rfl, rfl, fun _ => rfl, rfl,
    rfl, fun v hv => ?_, List.length_map _, rfl, rfl⟩
  obtain ⟨_, -, rfl⟩ := List.mem_map.mp hv
  rfl

/-- Settles O39: the default configuration is well-formed, storage is empty, and the reset values are legal. -/
theorem resetStateIsLegal : Obligations.ResetStateIsLegal where
  cfgOk := by decide
  ramOk := Bank.ok_empty Nat.one_pos
  bromOk := Bank.ok_empty Nat.one_pos
  sromOk := Bank.ok_empty Nat.one_pos
  viaCount := rfl
  aciaOk := ⟨rfl, rfl⟩
  cyclesFit := Nat.two_pow_pos _
  breakClear := rfl
  modeLegal _ := rfl

end Sys2Proof.Machine
end

section
/-! The address decoder: what a well-formed configuration says of its windows (R5), and one equation for each region of
the map (R84). -/

namespace Sys2Proof

/-- The numbers in a window. -/
def Window.Holds (w : Window) (n : Nat) : Prop := w.1 ≤ n ∧ n < w.1 + w.2

theorem inWindow_iff {n base len : Nat} : inWindow n base len = true ↔ Window.Holds (base, len) n := by
  simp [inWindow, Window.Holds]

theorem inWindow_eq_false_iff {n base len : Nat} : inWindow n base len = false ↔ ¬ Window.Holds (base, len) n := by
  rw [← inWindow_iff, Bool.not_eq_true]

/-- No address is in both of two disjoint windows. -/
theorem Window.Holds.not_of_disjoint {v w : Window} {n : Nat} (hv : v.Holds n) (h : v.disjoint w = true) :
    ¬ w.Holds n := by
  simp only [Window.disjoint, Bool.or_eq_true, decide_eq_true_eq] at h
  simp only [Window.Holds] at *
  omega

theorem Window.disjoint_comm (v w : Window) : v.disjoint w = w.disjoint v := by
  rw [Bool.eq_iff_iff]
  simp only [Window.disjoint, Bool.or_eq_true, decide_eq_true_eq]
  omega

theorem windowsDisjoint_iff {ws : List Window} :
    windowsDisjoint ws = true ↔ ws.Pairwise fun v w => v.disjoint w = true := by
  induction ws with
  | nil => simp [windowsDisjoint]
  | cons w ws ih => simp [windowsDisjoint, ih]

namespace Cfg

variable {c : Cfg}

/-! The windows of the four regions, in the order in which `Decode` tries them. -/

def devWindow (c : Cfg) : Window := (c.devStart, c.devEnd + 1 - c.devStart)
def sromWindow (c : Cfg) : Window := (c.sromStart, c.sromSize)
def bromWindow (c : Cfg) : Window := (c.bromStart, c.bromSize)
def ramWindow (c : Cfg) : Window := (c.ramStart, c.ramSize)

/-- The windows of a well-formed configuration: every device window lies in the device area, the device windows are
disjoint, and so are the four regions (R5). -/
theorem windows_of_wf (h : c.wf = true) :
    (∀ w ∈ c.deviceWindows, c.devStart ≤ w.1 ∧ w.1 + w.2 ≤ c.devEnd + 1) ∧
    c.deviceWindows.Pairwise (fun v w => v.disjoint w = true) ∧
    c.regions.Pairwise (fun v w => v.disjoint w = true) := by
  simp only [Cfg.wf, Bool.and_eq_true, List.all_eq_true, decide_eq_true_eq, windowsDisjoint_iff] at h
  obtain ⟨⟨⟨⟨⟨⟨-, hinside⟩, hdevices⟩, hregions⟩, -⟩, -⟩, -⟩ := h
  exact ⟨hinside, hdevices, hregions⟩

theorem aciaWindow_mem (c : Cfg) : ((c.aciaBase, 4) : Window) ∈ c.deviceWindows := List.mem_cons_self

theorem viaWindow_mem {v : ViaSlot} (hv : v ∈ c.vias) : ((v.base, 16) : Window) ∈ c.deviceWindows :=
  List.mem_cons_of_mem _ (List.mem_map_of_mem hv)

/-- No device window has the address. -/
def DeviceFree (c : Cfg) (n : Nat) : Prop := ∀ w ∈ c.deviceWindows, ¬ w.Holds n

/-- Outside the device area there is no device. -/
theorem deviceFree_of_not_dev (h : c.wf = true) {n : Nat} (hn : ¬ c.devWindow.Holds n) : c.DeviceFree n := by
  intro w hw hwn
  obtain ⟨hinside, -, -⟩ := windows_of_wf h
  have := hinside w hw
  simp only [Window.Holds, devWindow] at *
  omega

/-- A region shadows none of the others. -/
theorem regions_apart (h : c.wf = true) (n : Nat) :
    (c.sromWindow.Holds n → ¬ c.devWindow.Holds n) ∧
    (c.bromWindow.Holds n → ¬ c.devWindow.Holds n ∧ ¬ c.sromWindow.Holds n) ∧
    (c.ramWindow.Holds n → ¬ c.devWindow.Holds n ∧ ¬ c.sromWindow.Holds n ∧ ¬ c.bromWindow.Holds n) := by
  obtain ⟨-, -, hregions⟩ := windows_of_wf h
  have apart {v w : Window} (hd : v.disjoint w = true) (hw : w.Holds n) : ¬ v.Holds n :=
    fun hv => hv.not_of_disjoint hd hw
  simp only [Cfg.regions, List.pairwise_cons, List.forall_mem_cons] at hregions
  obtain ⟨⟨hds, hdb, hdr, -⟩, ⟨hsb, hsr, -⟩, ⟨hbr, -⟩, -⟩ := hregions
  exact ⟨apart hds, fun hb => ⟨apart hdb hb, apart hsb hb⟩, fun hr => ⟨apart hdr hr, apart hsr hr, apart hbr hr⟩⟩

end Cfg

/-! ## The VIA windows -/

theorem viaTarget_eq_none {n i : Nat} {vs : List ViaSlot} (h : ∀ v ∈ vs, ¬ Window.Holds (v.base, 16) n) :
    viaTarget n i vs = none := by
  induction vs generalizing i with
  | nil => rfl
  | cons v vs ih =>
    obtain ⟨hv, hvs⟩ := List.forall_mem_cons.mp h
    rw [viaTarget, inWindow_eq_false_iff.mpr hv]
    exact ih hvs

/-- Among disjoint windows, the one that holds the address is the first that does. -/
theorem viaTarget_of_holds {n i k : Nat} {vs : List ViaSlot} {v : ViaSlot}
    (hd : vs.Pairwise fun v w => Window.disjoint (v.base, 16) (w.base, 16) = true)
    (hk : vs[k]? = some v) (hn : Window.Holds (v.base, 16) n) : viaTarget n i vs = some (.via (i + k) (n - v.base)) := by
  induction vs generalizing i k with
  | nil => cases hk
  | cons w vs ih =>
    obtain ⟨hw, hvs⟩ := List.pairwise_cons.mp hd
    rw [viaTarget]
    cases k with
    | zero =>
      cases hk
      rw [if_pos (inWindow_iff.mpr hn), Nat.add_zero]
    | succ k =>
      have hwn : ¬ Window.Holds (w.base, 16) n := fun h => h.not_of_disjoint (hw v (List.mem_of_getElem? hk)) hn
      rw [inWindow_eq_false_iff.mpr hwn, if_neg Bool.false_ne_true, ih hvs hk, Nat.add_right_comm, Nat.add_assoc]

/-! ## One equation for each region -/

section
variable {c : Cfg} {a : Addr}

theorem target_acia (h : Window.Holds (c.aciaBase, 4) a.toNat) : target c a = .acia (a.toNat - c.aciaBase) := by
  simp only [target, inWindow_iff.mpr h, if_true]

theorem target_via (hc : c.wf = true) {i : Nat} {v : ViaSlot} (hi : c.vias[i]? = some v)
    (h : Window.Holds (v.base, 16) a.toNat) : target c a = .via i (a.toNat - v.base) := by
  obtain ⟨-, hdevices, -⟩ := Cfg.windows_of_wf hc
  obtain ⟨hacia, hvias⟩ := List.pairwise_cons.mp hdevices
  have hna : ¬ Window.Holds (c.aciaBase, 4) a.toNat := fun ha =>
    ha.not_of_disjoint (hacia _ (List.mem_map_of_mem (List.mem_of_getElem? hi))) h
  simp only [target, inWindow_eq_false_iff.mpr hna, viaTarget_of_holds (List.pairwise_map.mp hvias) hi h, Nat.zero_add,
    Bool.false_eq_true, if_false]

/-- Where no device window has the address, the four regions are tried in their order (R84 (3) to (6)). -/
theorem target_of_deviceFree (h : c.DeviceFree a.toNat) : target c a =
    if decide (c.devStart ≤ a.toNat) && decide (a.toNat ≤ c.devEnd) then .hole
    else if inWindow a.toNat c.sromStart c.sromSize then .srom (a.toNat - c.sromStart)
    else if inWindow a.toNat c.bromStart c.bromSize then .brom (a.toNat - c.bromStart)
    else if inWindow a.toNat c.ramStart c.ramSize then .ram (a.toNat - c.ramStart)
    else .fallback := by
  have hacia : inWindow a.toNat c.aciaBase 4 = false := inWindow_eq_false_iff.mpr (h _ c.aciaWindow_mem)
  have hvias : viaTarget a.toNat 0 c.vias = none := viaTarget_eq_none fun v hv => h _ (Cfg.viaWindow_mem hv)
  simp only [target, hacia, hvias, Bool.false_eq_true, if_false]

theorem target_hole (hf : c.DeviceFree a.toNat) (hd : c.devWindow.Holds a.toNat) : target c a = .hole := by
  rw [target_of_deviceFree hf, if_pos]
  simp only [Window.Holds, Cfg.devWindow] at hd
  simp only [Bool.and_eq_true, decide_eq_true_eq]
  omega

/-- Outside the device area the memory regions are tried in their order. -/
theorem target_of_not_dev (hc : c.wf = true) (hd : ¬ c.devWindow.Holds a.toNat) : target c a =
    if inWindow a.toNat c.sromStart c.sromSize then .srom (a.toNat - c.sromStart)
    else if inWindow a.toNat c.bromStart c.bromSize then .brom (a.toNat - c.bromStart)
    else if inWindow a.toNat c.ramStart c.ramSize then .ram (a.toNat - c.ramStart)
    else .fallback := by
  rw [target_of_deviceFree (Cfg.deviceFree_of_not_dev hc hd), if_neg]
  simp only [Window.Holds, Cfg.devWindow] at hd
  simp only [Bool.and_eq_true, decide_eq_true_eq]
  omega

theorem target_srom (hc : c.wf = true) (h : c.sromWindow.Holds a.toNat) : target c a = .srom (a.toNat - c.sromStart) := by
  obtain ⟨hapart, -, -⟩ := Cfg.regions_apart hc a.toNat
  rw [target_of_not_dev hc (hapart h), if_pos (inWindow_iff.mpr h)]

theorem target_brom (hc : c.wf = true) (h : c.bromWindow.Holds a.toNat) : target c a = .brom (a.toNat - c.bromStart) := by
  obtain ⟨-, hapart, -⟩ := Cfg.regions_apart hc a.toNat
  obtain ⟨hdev, hsrom⟩ := hapart h
  rw [target_of_not_dev hc hdev, if_neg (mt inWindow_iff.mp hsrom), if_pos (inWindow_iff.mpr h)]

theorem target_ram (hc : c.wf = true) (h : c.ramWindow.Holds a.toNat) : target c a = .ram (a.toNat - c.ramStart) := by
  obtain ⟨-, -, hapart⟩ := Cfg.regions_apart hc a.toNat
  obtain ⟨hdev, hsrom, hbrom⟩ := hapart h
  rw [target_of_not_dev hc hdev, if_neg (mt inWindow_iff.mp hsrom), if_neg (mt inWindow_iff.mp hbrom),
    if_pos (inWindow_iff.mpr h)]

theorem target_fallback (hc : c.wf = true) (hdev : ¬ c.devWindow.Holds a.toNat) (hsrom : ¬ c.sromWindow.Holds a.toNat)
    (hbrom : ¬ c.bromWindow.Holds a.toNat) (hram : ¬ c.ramWindow.Holds a.toNat) : target c a = .fallback := by
  rw [target_of_not_dev hc hdev, if_neg (mt inWindow_iff.mp hsrom), if_neg (mt inWindow_iff.mp hbrom),
    if_neg (mt inWindow_iff.mp hram)]

end

theorem Cfg.default_wf : Cfg.default.wf = true := by decide

/-- The device windows of the default configuration are 0x8000 to 0x8003 and 0x8010 to 0x802F (R95). -/
theorem Cfg.default_deviceFree {n : Nat} (h : n < 0x8000 ∨ 0x8003 < n ∧ n < 0x8010 ∨ 0x802F < n) :
    Cfg.default.DeviceFree n := by
  simp only [DeviceFree, deviceWindows, Cfg.default, List.map_cons, List.map_nil, List.forall_mem_cons,
    List.not_mem_nil, Window.Holds]
  refine ⟨by omega, by omega, by omega, nofun⟩

/-- A hole of the default device area. -/
theorem target_default_hole {a : Addr} (h : 0x8004 ≤ a.toNat ∧ a.toNat ≤ 0x800F ∨ 0x8030 ≤ a.toNat ∧ a.toNat ≤ 0x8FFF) :
    target Cfg.default a = .hole :=
  target_hole (Cfg.default_deviceFree (by omega)) (by simp only [Window.Holds, Cfg.devWindow, Cfg.default]; omega)

/-- The default map has nothing between the device area and banked ROM. -/
theorem target_default_fallback {a : Addr} (h : 0x9000 ≤ a.toNat ∧ a.toNat ≤ 0xBFFF) :
    target Cfg.default a = .fallback := by
  apply target_fallback Cfg.default_wf <;>
    (simp only [Window.Holds, Cfg.devWindow, Cfg.sromWindow, Cfg.bromWindow, Cfg.ramWindow, Cfg.default]; omega)

/-- Settles O45: the windows by the equation of each region, the holes and the fallback of the default map by theirs. -/
theorem addressesDecodeToTheirRegion : Obligations.AddressesDecodeToTheirRegion := by
  have hd := Cfg.default_wf
  refine ⟨fun a => ?_, fun c a hc => ⟨fun h h' => target_acia ⟨h, h'⟩, fun i v hi h h' => target_via hc hi ⟨h, h'⟩,
    fun h h' => target_srom hc ⟨h, h'⟩, fun h h' => target_brom hc ⟨h, h'⟩, fun h h' => target_ram hc ⟨h, h'⟩⟩⟩
  have hlt := a.isLt
  exact ⟨fun h => target_ram (c := Cfg.default) hd ⟨Nat.zero_le _, by simp only [Cfg.ramWindow, Cfg.default]; omega⟩,
    fun h h' => target_acia (c := Cfg.default) ⟨h, Nat.lt_succ_of_le h'⟩,
    fun h h' => target_default_hole (.inl ⟨h, h'⟩),
    fun h h' => target_via (v := ⟨0x8010, .irq⟩) hd rfl ⟨h, Nat.lt_succ_of_le h'⟩,
    fun h h' => target_via (v := ⟨0x8020, .irq⟩) hd rfl ⟨h, Nat.lt_succ_of_le h'⟩,
    fun h h' => target_default_hole (.inr ⟨h, h'⟩),
    fun h h' => target_default_fallback ⟨h, h'⟩,
    fun h h' => target_brom (c := Cfg.default) hd ⟨h, Nat.lt_succ_of_le h'⟩,
    fun h => target_srom (c := Cfg.default) hd ⟨h, hlt⟩⟩

end Sys2Proof
end

section
/-! Bus accesses, region by region (R88 to R93, R406 to R408), and the cycles they take (R94). -/

namespace Sys2Proof.Machine

variable {s : State} {a : Addr}

/-- A cycle-counted access is a tick and then the cycle-free access (R88 to R91). -/
theorem busRead_eq (a : Addr) (s : State) : busRead a s = readNoCycle a s.tick := by
  simp only [busRead, readNoCycle, bind_apply, internal_apply]

theorem busWrite_eq (a : Addr) (v : Byte) (s : State) : busWrite a v s = writeNoCycle a v s.tick := by
  simp only [busWrite, writeNoCycle, bind_apply, internal_apply]

theorem busWrite_rom {o : Nat} (v : Byte) (ht : target s.cfg a = .srom o ∨ target s.cfg a = .brom o) :
    busWrite a v s = .error (.romWrite a v) s.tick := by
  rcases ht with ht | ht <;> simp only [busWrite_eq, writeNoCycle, dispatchWrite, State.tick_cfg, ht]

theorem busRead_hole (ht : target s.cfg a = .hole) : busRead a s = .error (.deviceHole a .read) s.tick := by
  simp only [busRead_eq, readNoCycle, dispatchRead, State.tick_cfg, ht]

theorem busWrite_hole (v : Byte) (ht : target s.cfg a = .hole) :
    busWrite a v s = .error (.deviceHole a .write) s.tick := by
  simp only [busWrite_eq, writeNoCycle, dispatchWrite, State.tick_cfg, ht]

theorem busRead_fallback (ht : target s.cfg a = .fallback) :
    busRead a s = if s.cfg.strictUnmapped then .error (.unmapped a .read) s.tick else .ok 0x00 s.tick := by
  simp only [busRead_eq, readNoCycle, dispatchRead, State.tick_cfg, ht]

theorem busWrite_fallback (v : Byte) (ht : target s.cfg a = .fallback) :
    busWrite a v s = if s.cfg.strictUnmapped then .error (.unmapped a .write) s.tick else .ok () s.tick := by
  simp only [busWrite_eq, writeNoCycle, dispatchWrite, State.tick_cfg, ht]

theorem State.via_of_getElem? {i : Nat} {w : Via} (h : s.vias[i]? = some w) : s.via i = w := by
  simp [State.via, List.getD, h]

theorem busRead_via {i r : Nat} {w : Via} (ht : target s.cfg a = .via i r) (hw : s.tick.vias[i]? = some w) :
    busRead a s = .ok (w.read r).1 (s.tick.setVias (s.tick.vias.set i (w.read r).2)) := by
  simp only [busRead_eq, readNoCycle, dispatchRead, State.tick_cfg, ht, State.via_of_getElem? hw]

theorem busWrite_via {i r : Nat} {w : Via} (v : Byte) (ht : target s.cfg a = .via i r)
    (hw : s.tick.vias[i]? = some w) :
    busWrite a v s = .ok () (s.tick.setVias (s.tick.vias.set i (w.write r v))) := by
  simp only [busWrite_eq, writeNoCycle, dispatchWrite, State.tick_cfg, ht, State.via_of_getElem? hw]

theorem busRead_acia {r : Nat} (ht : target s.cfg a = .acia r) :
    busRead a s = .ok (s.acia.read r).1 (s.tick.setAcia (s.acia.read r).2) := by
  simp only [busRead_eq, readNoCycle, dispatchRead, State.tick_cfg, State.tick_acia, ht]

theorem busWrite_acia_ok {r : Nat} {v : Byte} {d : Acia} (ht : target s.cfg a = .acia r)
    (hd : s.acia.write r v = .ok d) : busWrite a v s = .ok () (s.tick.setAcia d) := by
  simp only [busWrite_eq, writeNoCycle, dispatchWrite, State.tick_cfg, State.tick_acia, ht, hd]

theorem busWrite_acia_error {r : Nat} {v : Byte} {f : Fault} (ht : target s.cfg a = .acia r)
    (hf : s.acia.write r v = .error f) : busWrite a v s = .error f s.tick := by
  simp only [busWrite_eq, writeNoCycle, dispatchWrite, State.tick_cfg, State.tick_acia, ht, hf]

/-- Settles O46: region by region, with the laws of memory reads and RAM writes. -/
theorem busAccessesFollowTheMap : Obligations.BusAccessesFollowTheMap := by
  intro s a v
  refine ⟨fun b => busRead_memByte, fun hram => ?_, fun o => busWrite_rom v,
    fun ht => ⟨busRead_hole ht, busWrite_hole v ht⟩, fun ht => ⟨fun hs => ?_, fun hs => ?_⟩,
    fun i r w ht hw => ⟨busRead_via ht hw, busWrite_via v ht hw⟩,
    fun r ht => ⟨busRead_acia ht, fun d => busWrite_acia_ok ht, fun f => busWrite_acia_error ht⟩,
    busRead_eq a s, busWrite_eq a v s⟩
  · obtain ⟨b, hok, -, hsame, hother⟩ := busWrite_ram v hram
    exact ⟨b, hok, hsame, hother⟩
  · simp [busRead_fallback ht, busWrite_fallback v ht, hs]
  · simp [busRead_fallback ht, busWrite_fallback v ht, hs]

/-- What holds of the counter at the end of `x`, whether it ends with a value or with a fault. -/
theorem cycles_at_both_ends {α : Type} {x : Exec α} {s : State} {n : Nat} (h : (endState (x s)).cycles = n) :
    (∀ b t, x s = .ok b t → t.cycles = n) ∧ (∀ f t, x s = .error f t → t.cycles = n) :=
  ⟨fun _ _ e => by simpa [e] using h, fun _ _ e => by simpa [e] using h⟩

/-- Settles O47: a cycle-counted access ticks once, and dispatch leaves the counter alone. -/
theorem cycleAccountingLaw : Obligations.CycleAccountingLaw := by
  intro s a v
  obtain ⟨hreadOk, hreadFault⟩ := cycles_at_both_ends (busRead_cycles a s)
  obtain ⟨hwriteOk, hwriteFault⟩ := cycles_at_both_ends (busWrite_cycles a v s)
  obtain ⟨hfreeReadOk, hfreeReadFault⟩ := cycles_at_both_ends (x := readNoCycle a) (dispatchRead_cycles a s)
  obtain ⟨hfreeWriteOk, hfreeWriteFault⟩ := cycles_at_both_ends (x := writeNoCycle a v) (dispatchWrite_cycles a v s)
  exact ⟨hreadOk, hreadFault, hwriteOk (), hwriteFault, hfreeReadOk, hfreeReadFault, hfreeWriteOk (), hfreeWriteFault⟩

end Sys2Proof.Machine
end

section
/-! The clock tick (R86, R480): every VIA gets exactly one clock edge, and each pending latch is set by the VIAs of its
line that request (R418, R456). -/

namespace Sys2Proof.Machine

namespace State

/-- The pending latch of a line (R28). -/
def pending (s : State) : IrqLine → Bool
  | .irq => s.pendingIrq
  | .nmi => s.pendingNmi

/-- VIA `i` drives line `l`, and its next clock edge requests the CPU. -/
def EdgeRequests (s : State) (l : IrqLine) (i : Nat) : Prop :=
  ∃ (v : Via) (slot : ViaSlot), s.vias[i]? = some v ∧ s.cfg.vias[i]? = some slot ∧ slot.line = l ∧
    (v.clockEdge s.cfg.viaT2Reloads).2 = true

/-- The first `n` VIAs of `s` have had one clock edge each, and `t` is the result. -/
structure Clocked (s : State) (n : Nat) (t : State) : Prop where
  cfg : t.cfg = s.cfg
  vias : ∀ i, t.vias[i]? = (s.vias[i]?).map fun v => if i < n then (v.clockEdge s.cfg.viaT2Reloads).1 else v
  pending : ∀ l, t.pending l = true ↔ s.pending l = true ∨ ∃ i < n, s.EdgeRequests l i

variable {s t : State} {i n : Nat} {v : Via} {slot : ViaSlot}

/-- The edge of one VIA: its result in its place, and the latch of its line set if it requests. -/
theorem clockVia_slot (hv : s.vias[i]? = some v) (hs : s.cfg.vias[i]? = some slot) : s.clockVia i = { s with
    vias := s.vias.set i (v.clockEdge s.cfg.viaT2Reloads).1
    pendingIrq := s.pendingIrq || ((v.clockEdge s.cfg.viaT2Reloads).2 && decide (slot.line = .irq))
    pendingNmi := s.pendingNmi || ((v.clockEdge s.cfg.viaT2Reloads).2 && decide (slot.line = .nmi)) } := by
  simp only [clockVia, hv]
  exact viaRequest_slot (s := s.setVias (s.vias.set i (v.clockEdge s.cfg.viaT2Reloads).1)) hs _

theorem clockVia_pending (hv : s.vias[i]? = some v) (hs : s.cfg.vias[i]? = some slot) (l : IrqLine) :
    (s.clockVia i).pending l = (s.pending l || ((v.clockEdge s.cfg.viaT2Reloads).2 && decide (slot.line = l))) := by
  rw [clockVia_slot hv hs]
  cases l <;> rfl

theorem edgeRequests_iff (hv : s.vias[i]? = some v) (hs : s.cfg.vias[i]? = some slot) (l : IrqLine) :
    s.EdgeRequests l i ↔ (v.clockEdge s.cfg.viaT2Reloads).2 = true ∧ slot.line = l := by
  simp [EdgeRequests, hv, hs, and_comm]

namespace Clocked

theorem zero (s : State) (c : Nat) : s.Clocked 0 (s.setCycles c) where
  cfg := rfl
  vias i := by simp
  pending l := by
    cases l <;> simp [State.pending]

/-- VIA `n` is still as it was when its edge comes. -/
theorem succ (h : s.Clocked n t) (hv : s.vias[n]? = some v) (hs : s.cfg.vias[n]? = some slot) :
    s.Clocked (n + 1) (t.clockVia n) := by
  have hvt : t.vias[n]? = some v := by simp [h.vias, hv]
  have hst : t.cfg.vias[n]? = some slot := by rw [h.cfg, hs]
  refine ⟨(cfg_of_still (clockVia_still t n)).trans h.cfg, fun i => ?_, fun l => ?_⟩
  · rw [clockVia_slot hvt hst, h.cfg]
    simp only [List.getElem?_set, h.vias]
    by_cases hi : n = i
    · subst hi
      have hlt := (List.getElem?_eq_some_iff.mp hvt).1
      simp [hv, hlt]
    · simp [hi, show i < n + 1 ↔ i < n by omega]
  · rw [clockVia_pending hvt hst, h.cfg, Bool.or_eq_true, h.pending, Bool.and_eq_true, decide_eq_true_eq,
      ← edgeRequests_iff hv hs, or_assoc, Nat.exists_lt_succ_right]

/-- A tick gives every VIA its edge, where there is one for every configured one. -/
theorem tick (hlen : s.vias.length = s.cfg.vias.length) : s.Clocked s.cfg.vias.length s.tick := by
  suffices h : ∀ n ≤ s.cfg.vias.length, s.Clocked n
      ((List.range n).foldl clockVia (s.setCycles (nextCycle s.cfg s.cycles))) from h _ (Nat.le_refl _)
  intro n
  induction n with
  | zero => exact fun _ => zero s _
  | succ n ih =>
    intro hn
    rw [List.range_succ, List.foldl_append]
    exact (ih (by omega)).succ (List.getElem?_eq_getElem (by omega)) (List.getElem?_eq_getElem (by omega))

/-- Once every VIA has had its edge, a latch is set if it was or any VIA of its line requests. -/
theorem pending_all (h : s.Clocked s.cfg.vias.length t) (l : IrqLine) :
    t.pending l = true ↔ s.pending l = true ∨ ∃ i, s.EdgeRequests l i := by
  rw [h.pending]
  refine or_congr_right ⟨fun ⟨i, _, hr⟩ => ⟨i, hr⟩, fun ⟨i, hr⟩ => ⟨i, ?_, hr⟩⟩
  obtain ⟨_, _, -, hslot, -⟩ := hr
  exact (List.getElem?_eq_some_iff.mp hslot).1

end Clocked

end State

/-- Settles O48: by induction on the VIAs that have had their edge. -/
theorem tickClocksEveryViaOnce : Obligations.TickClocksEveryViaOnce := by
  intro s hlen
  have h := State.Clocked.tick hlen
  refine ⟨s.tick_cycles, List.ext_getElem? fun i => ?_, h.pending_all .irq, h.pending_all .nmi, s.tick_still, s.tick_pc,
    s.tick_acia⟩
  rw [h.vias, List.getElem?_map, ← hlen]
  cases hv : s.vias[i]? with
  | none => rfl
  | some v => simp [(List.getElem?_eq_some_iff.mp hv).1]

end Sys2Proof.Machine
end

section
/-! Images and banks (R112 to R114): what the stored bytes read as, by bank and offset. -/

namespace Sys2Proof.Machine

/-- Bytes stored at the start of bank `bank` and no longer than a bank: they are read in that bank at their offsets, and
every other byte of the device is as before (R112). -/
theorem read_writeAll_bank {m : Memory} {size bank b o : Nat} {bytes : List Byte} (hm : Memory.wf m = true)
    (hlen : bytes.length ≤ size) (ho : o < size) :
    Memory.read (Memory.writeAll m (bank * size) bytes) (b * size + o) =
      if b = bank ∧ o < bytes.length then bytes.getD o 0x00 else Memory.read m (b * size + o) := by
  by_cases hb : b = bank
  · subst hb
    by_cases hob : o < bytes.length
    · rw [if_pos ⟨rfl, hob⟩, Memory.read_writeAll_same _ _ hm _ hob]
      rfl
    · rw [if_neg (fun h => hob h.2), Memory.read_writeAll_other _ _ _ (by omega)]
  · rw [if_neg (fun h => hb h.1), Memory.read_writeAll_other]
    rcases Nat.lt_or_gt_of_ne hb with h | h
    all_goals
      have hle := Nat.mul_le_mul_right size h
      rw [Nat.succ_mul] at hle
      omega

section
variable {s : State} {d : RomDevice} {bank : Nat} {bytes : List Byte}

theorem hostLoadRom_ok (hbank : bank < d.totalBanks s.cfg) (hlen : bytes.length ≤ d.bankSize s.cfg) :
    hostLoadRom s d bank bytes =
      .ok (s.setRom d ⟨Memory.writeAll (s.rom d).cells (bank * d.bankSize s.cfg) bytes, (s.rom d).bank⟩) := by
  simp only [hostLoadRom, if_neg (Nat.not_le.mpr hbank), if_neg (Nat.not_lt.mpr hlen)]

theorem hostLoadRom_badBank (hbank : d.totalBanks s.cfg ≤ bank) :
    hostLoadRom s d bank bytes = .error (.configError .badBank bank) := by simp only [hostLoadRom, if_pos hbank]

theorem hostLoadRom_imageSize (hbank : bank < d.totalBanks s.cfg) (hlen : d.bankSize s.cfg < bytes.length) :
    hostLoadRom s d bank bytes = .error (.configError .imageSize bytes.length) := by
  simp only [hostLoadRom, if_neg (Nat.not_le.mpr hbank), if_pos hlen]

theorem hostLoadFlat_ok (hlen : bytes.length ≤ d.totalBanks s.cfg * d.bankSize s.cfg) :
    hostLoadFlat s d bytes = .ok (s.setRom d ⟨Memory.writeAll (s.rom d).cells 0 bytes, (s.rom d).bank⟩) := by
  simp only [hostLoadFlat, if_neg (Nat.not_lt.mpr hlen)]

theorem hostLoadFlat_imageSize (hlen : d.totalBanks s.cfg * d.bankSize s.cfg < bytes.length) :
    hostLoadFlat s d bytes = .error (.configError .imageSize bytes.length) := by simp only [hostLoadFlat, if_pos hlen]

end

/-- The state with `n` as the current bank of a device. -/
def State.withBank (s : State) (n : Nat) : BankDevice → State
  | .bankedRom => { s with brom := { s.brom with bank := n } }
  | .sharedRom => { s with srom := { s.srom with bank := n } }
  | .ram => { s with ram := { s.ram with bank := n } }

theorem hostSelectBank_ok {s : State} {d : BankDevice} {n : Nat} (h : n < d.totalBanks s.cfg) :
    hostSelectBank s d n = .ok (s.withBank n d) := by
  cases d <;> exact if_neg (Nat.not_le.mpr h)

theorem hostSelectBank_badBank {s : State} {d : BankDevice} {n : Nat} (h : d.totalBanks s.cfg ≤ n) :
    hostSelectBank s d n = .error (.configError .badBank n) := if_pos h

/-- Settles O60: the outcome of each operation, and what the stored image reads as. -/
theorem loadRomAndSelectBank : Obligations.LoadRomAndSelectBank := by
  intro s d bank bytes hwf
  refine ⟨fun hbank hlen => ⟨_, hostLoadRom_ok hbank hlen, fun b o => read_writeAll_bank hwf hlen⟩, hostLoadRom_badBank,
    hostLoadRom_imageSize, fun hlen => ⟨_, hostLoadFlat_ok hlen, fun k hk => ?_, fun k hk => ?_⟩, hostLoadFlat_imageSize,
    fun n => ⟨hostSelectBank_ok (d := .bankedRom), hostSelectBank_ok (d := .sharedRom), hostSelectBank_ok (d := .ram),
      hostSelectBank_badBank (d := .bankedRom), hostSelectBank_badBank (d := .sharedRom),
      hostSelectBank_badBank (d := .ram)⟩⟩
  · have hsame := Memory.read_writeAll_same 0 bytes hwf k hk
    rw [Nat.zero_add] at hsame
    rw [Nat.div_add_mod']
    exact hsame
  · exact Memory.read_writeAll_other _ _ _ (.inr (by omega))

end Sys2Proof.Machine
end

section
/-! Decoding and encoding as inverses (R140 to R147). Both directions rest on the cells of the matrix: the operand bytes
a cell takes, that the per-mnemonic list gives each cell's instruction the cell's opcode, and that every instruction is
named by a cell. -/

namespace Sys2Proof

/-! ## Decoding by cells -/

/-- The operand bytes that a cell takes when `l` and `h` follow the opcode; a word is taken low byte first (R143). -/
def Entry.operandBytes (l h : Byte) : Entry → List Byte
  | .illegal => []
  | .one _ => []
  | .two _ => [l]
  | .three _ => [lo (join h l), hi (join h l)]
  | .zpr _ => [l, h]

/-- How many operand bytes follow the opcode of a cell (R140). -/
def Entry.operandCount : Entry → Nat
  | .illegal => 0
  | .one _ => 0
  | .two _ => 1
  | .three _ => 2
  | .zpr _ => 2

theorem Entry.operandCount_le_two (e : Entry) : e.operandCount ≤ 2 := by cases e <;> simp [operandCount]

/-- Any bytes of the right number are the operand bytes of a cell. -/
theorem Entry.exists_operandBytes (e : Entry) {operands : List Byte} (hlen : operands.length = e.operandCount) :
    ∃ l h, e.operandBytes l h = operands := by
  match e, operands, hlen with
  | .illegal, [], _ => exact ⟨0, 0, rfl⟩
  | .one _, [], _ => exact ⟨0, 0, rfl⟩
  | .two _, [l], _ => exact ⟨l, 0, rfl⟩
  | .three _, [l, h], _ => exact ⟨l, h, by simp [operandBytes]⟩
  | .zpr _, [l, h], _ => exact ⟨l, h, rfl⟩

/-- Decoding an opcode and the operand bytes of its cell gives the cell's instruction and leaves the rest. -/
theorem decode_operandBytes_append (lvl : IsaLevel) (op l h : Byte) (rest : List Byte) :
    decode lvl (op :: ((entryAt lvl op).operandBytes l h ++ rest)) = .ok ((entryAt lvl op).instr op l h, rest) := by
  cases he : entryAt lvl op <;> simp [decode, he, Entry.operandBytes, Entry.instr]

/-- What is decoded is the cell's instruction, and the bytes are the cell's operand bytes and the rest. -/
theorem exists_operandBytes_of_decode {lvl : IsaLevel} {op : Byte} {bytes rest : List Byte} {i : Instr}
    (h : decode lvl (op :: bytes) = .ok (i, rest)) :
    ∃ b c, i = (entryAt lvl op).instr op b c ∧ bytes = (entryAt lvl op).operandBytes b c ++ rest := by
  simp only [decode] at h
  split at h <;> rename_i he <;> cases h <;> rw [he]
  · exact ⟨0, 0, rfl, rfl⟩
  · exact ⟨0, 0, rfl, rfl⟩
  · exact ⟨_, 0, rfl, rfl⟩
  · exact ⟨_, _, rfl, by simp [Entry.operandBytes]⟩
  · exact ⟨_, _, rfl, rfl⟩

/-- With as many bytes as its cell takes, every opcode decodes (R142). -/
theorem decode_total (lvl : IsaLevel) (op : Byte) {operands : List Byte} (rest : List Byte)
    (hlen : operands.length = (entryAt lvl op).operandCount) :
    ∃ i, decode lvl (op :: operands ++ rest) = .ok (i, rest) := by
  obtain ⟨l, h, rfl⟩ := (entryAt lvl op).exists_operandBytes hlen
  exact ⟨_, decode_operandBytes_append lvl op l h rest⟩

/-! ## The cells of the matrix -/

/-- The encoder gives back, for the sixteen cells of a row, the opcode and the cell's operand bytes: the encodings
evaluate whatever the operand bytes are. -/
theorem row_encode_instr (l h : Byte) {r : Nat} (hr : r < 16) :
    ((List.range 16).map fun k =>
      let op := BitVec.ofNat 8 (16 * r + k)
      encode ((matrixCell op).instr op l h)) =
    (List.range 16).map fun k =>
      let op := BitVec.ofNat 8 (16 * r + k)
      op :: (matrixCell op).operandBytes l h := by
  match r with
  | 0 | 1 | 2 | 3 | 4 | 5 | 6 | 7 | 8 | 9 | 10 | 11 | 12 | 13 | 14 | 15 => rfl
  | n + 16 => omega

/-- The level has the instructions of a row's cells exactly where its gate is open (R147). -/
theorem row_levelHas_instr (lvl : IsaLevel) (l h : Byte) {r : Nat} (hr : r < 16) :
    ((List.range 16).map fun k =>
      let op := BitVec.ofNat 8 (16 * r + k)
      levelHas lvl ((matrixCell op).instr op l h)) =
    (List.range 16).map fun k => gateOpen lvl (BitVec.ofNat 8 (16 * r + k)) := by
  match r with
  | 0 | 1 | 2 | 3 | 4 | 5 | 6 | 7 | 8 | 9 | 10 | 11 | 12 | 13 | 14 | 15 => cases lvl <;> rfl
  | n + 16 => omega

/-- Functions of the opcode that agree on every row of the matrix agree. -/
theorem eq_of_rows {α : Type} {f g : Byte → α}
    (h : ∀ r < 16, ((List.range 16).map fun k => f (BitVec.ofNat 8 (16 * r + k))) =
      (List.range 16).map fun k => g (BitVec.ofNat 8 (16 * r + k))) (op : Byte) : f op = g op := by
  have hcell := List.map_inj_left.mp (h (op.toNat / 16) (by omega)) (op.toNat % 16) (List.mem_range.mpr (by omega))
  simpa [Nat.div_add_mod] using hcell

/-- The encoder reads the matrix backwards, cell by cell (R145). -/
theorem encode_matrixCell_instr (op l h : Byte) :
    encode ((matrixCell op).instr op l h) = op :: (matrixCell op).operandBytes l h :=
  eq_of_rows (f := fun op => encode ((matrixCell op).instr op l h))
    (g := fun op => op :: (matrixCell op).operandBytes l h) (fun _ => row_encode_instr l h) op

theorem levelHas_matrixCell_instr (lvl : IsaLevel) (op l h : Byte) :
    levelHas lvl ((matrixCell op).instr op l h) = gateOpen lvl op :=
  eq_of_rows (f := fun op => levelHas lvl ((matrixCell op).instr op l h)) (fun _ => row_levelHas_instr lvl l h) op

theorem entryAt_of_gateOpen {lvl : IsaLevel} {op : Byte} (h : gateOpen lvl op = true) :
    entryAt lvl op = matrixCell op := if_pos h

/-- The same at every level: a gated cell is an illegal one. -/
theorem encode_entryAt_instr (lvl : IsaLevel) (op l h : Byte) :
    encode ((entryAt lvl op).instr op l h) = op :: (entryAt lvl op).operandBytes l h := by
  unfold entryAt
  split
  · exact encode_matrixCell_instr op l h
  · rfl

/-! ## Every instruction is named by a cell -/

/-- To prove something of a memory operand, its word may be written as two bytes. -/
theorem Mem.bytesCases {P : Mem → Prop} (zp : ∀ z, P (.zp z)) (zpx : ∀ z, P (.zpx z)) (zpy : ∀ z, P (.zpy z))
    (izx : ∀ z, P (.izx z)) (izy : ∀ z, P (.izy z)) (izp : ∀ z, P (.izp z)) (abs : ∀ h l, P (.abs (join h l)))
    (abx : ∀ h l, P (.abx (join h l))) (aby : ∀ h l, P (.aby (join h l))) (m : Mem) : P m := by
  cases m with
  | zp z => exact zp z
  | zpx z => exact zpx z
  | zpy z => exact zpy z
  | izx z => exact izx z
  | izy z => exact izy z
  | izp z => exact izp z
  | abs a => exact join_hi_lo a ▸ abs (hi a) (lo a)
  | abx a => exact join_hi_lo a ▸ abx (hi a) (lo a)
  | aby a => exact join_hi_lo a ▸ aby (hi a) (lo a)

/-- The cell of the matrix at the opcode of `i` names `i`. -/
def Instr.InMatrix (i : Instr) : Prop := ∃ op l h, i.opcode? = some op ∧ (matrixCell op).instr op l h = i

/-- An instruction in a format of its rule is in the matrix at its opcode (R145), an illegal byte apart. A format that
the rule does not list makes the premise false. -/
theorem Instr.inMatrix_of_format {i : Instr} (hf : i.formats.contains i.format = true)
    (hlegal : ∀ op, i ≠ .illegal op) : i.InMatrix := by
  cases i with
  | illegal op => exact absurd rfl (hlegal op)
  | lda o | ldx o | ldy o | adc o | sbc o | and o | ora o | eor o | cmp o | cpx o | cpy o | bit o =>
    cases o with
    | imm v => exact ⟨_, v, 0, rfl, rfl⟩
    | mem m =>
      cases m using Mem.bytesCases with
      | zp z | zpx z | zpy z | izx z | izy z | izp z => cases hf <;> exact ⟨_, z, 0, rfl, rfl⟩
      | abs h l | abx h l | aby h l => cases hf <;> exact ⟨_, l, h, rfl, rfl⟩
  | sta m | stx m | sty m | stz m | tsb m | trb m =>
    cases m using Mem.bytesCases with
    | zp z | zpx z | zpy z | izx z | izy z | izp z => cases hf <;> exact ⟨_, z, 0, rfl, rfl⟩
    | abs h l | abx h l | aby h l => cases hf <;> exact ⟨_, l, h, rfl, rfl⟩
  | inc o | dec o | asl o | lsr o | rol o | ror o =>
    cases o with
    | acc => exact ⟨_, 0, 0, rfl, rfl⟩
    | mem m =>
      cases m using Mem.bytesCases with
      | zp z | zpx z | zpy z | izx z | izy z | izp z => cases hf <;> exact ⟨_, z, 0, rfl, rfl⟩
      | abs h l | abx h l | aby h l => cases hf <;> exact ⟨_, l, h, rfl, rfl⟩
  | jmp o =>
    cases o with
    | abs a | ind a | iax a =>
      rw [← join_hi_lo a]
      exact ⟨_, lo a, hi a, rfl, rfl⟩
  | jsr a =>
    rw [← join_hi_lo a]
    exact ⟨_, lo a, hi a, rfl, rfl⟩
  | rmb0 z | rmb1 z | rmb2 z | rmb3 z | rmb4 z | rmb5 z | rmb6 z | rmb7 z
  | smb0 z | smb1 z | smb2 z | smb3 z | smb4 z | smb5 z | smb6 z | smb7 z
  | bcc z | bcs z | beq z | bne z | bmi z | bpl z | bvc z | bvs z | bra z | brk z => exact ⟨_, z, 0, rfl, rfl⟩
  | bbr0 z d | bbr1 z d | bbr2 z d | bbr3 z d | bbr4 z d | bbr5 z d | bbr6 z d | bbr7 z d
  | bbs0 z d | bbs1 z d | bbs2 z d | bbs3 z d | bbs4 z d | bbs5 z d | bbs6 z d | bbs7 z d => exact ⟨_, z, d, rfl, rfl⟩
  | _ => exact ⟨_, 0, 0, rfl, rfl⟩

/-- The 44 bytes have empty cells (R146). -/
theorem matrixCell_of_mem_illegalBytes {op : Byte} (h : op ∈ illegalBytes) : matrixCell op = .illegal :=
  List.map_inj_left.mp (show illegalBytes.map matrixCell = illegalBytes.map fun _ => .illegal from rfl) op h

/-- The bytes that are illegal at a level, in the words of R146 and R147. -/
theorem illegalAt_iff {lvl : IsaLevel} {op : Byte} : illegalAt lvl op = true ↔
    op ∈ illegalBytes ∨ (lvl ≠ .w65c02s ∧ (op = 0xCB ∨ op = 0xDB)) ∨
    (lvl = .c02Base ∧ (op.toNat % 16 = 7 ∨ op.toNat % 16 = 15)) := by
  cases lvl <;> simp [illegalAt, or_assoc]

/-- The illegal bytes of a level are the 44 and those behind a shut gate. -/
theorem illegalAt_eq (lvl : IsaLevel) (op : Byte) :
    illegalAt lvl op = (illegalBytes.contains op || !gateOpen lvl op) := by
  cases lvl <;> simp [illegalAt, gateOpen, bne, Bool.or_assoc]

theorem entryAt_of_illegalAt {lvl : IsaLevel} {op : Byte} (h : illegalAt lvl op = true) :
    entryAt lvl op = .illegal := by
  cases hgate : gateOpen lvl op with
  | true =>
    rw [entryAt_of_gateOpen hgate]
    exact matrixCell_of_mem_illegalBytes (by simpa [illegalAt_eq, hgate] using h)
  | false => simp [entryAt, hgate]

theorem Instr.wellFormed_iff {lvl : IsaLevel} {i : Instr} : i.wellFormed lvl = true ↔
    i.formats.contains i.format = true ∧ levelHas lvl i = true ∧ illegalOk lvl i = true := by
  simp only [Instr.wellFormed, Bool.and_eq_true, and_assoc]

/-- An illegal term is well-formed exactly at the levels where its byte is illegal. -/
theorem wellFormed_illegal (lvl : IsaLevel) (op : Byte) :
    (Instr.illegal op).wellFormed lvl = illegalAt lvl op := by
  cases lvl <;> rfl

/-- Every well-formed instruction is named by a cell of its level. -/
theorem exists_entryAt_of_wellFormed {lvl : IsaLevel} {i : Instr} (h : i.wellFormed lvl = true) :
    ∃ op l h, (entryAt lvl op).instr op l h = i := by
  obtain ⟨hformat, hlevel, hillegal⟩ := Instr.wellFormed_iff.mp h
  by_cases hi : ∃ op, i = .illegal op
  · obtain ⟨op, rfl⟩ := hi
    exact ⟨op, 0, 0, by rw [entryAt_of_illegalAt hillegal, Entry.instr]⟩
  · obtain ⟨op, l, h, -, hcell⟩ := Instr.inMatrix_of_format hformat (not_exists.mp hi)
    rw [← hcell, levelHas_matrixCell_instr] at hlevel
    exact ⟨op, l, h, by rw [entryAt_of_gateOpen hlevel, hcell]⟩

/-! ## The statements -/

/-- Settles O1: the instruction is a cell's, its encoding is the cell's opcode and operand bytes, and these decode to
it. -/
theorem decodeOfEncodeIsTheInstruction : Obligations.DecodeOfEncodeIsTheInstruction := by
  intro lvl i rest hi
  obtain ⟨op, l, h, rfl⟩ := exists_entryAt_of_wellFormed hi
  rw [encode_entryAt_instr]
  exact decode_operandBytes_append lvl op l h rest

theorem Mem.bytes_length (m : Mem) : m.bytes.length + 1 = m.format.length := by cases m <;> rfl

theorem ReadOp.bytes_length (o : ReadOp) : o.bytes.length + 1 = o.format.length := by
  cases o with
  | imm v => rfl
  | mem m => exact m.bytes_length

theorem RmwOp.bytes_length (o : RmwOp) : o.bytes.length + 1 = o.format.length := by
  cases o with
  | acc => rfl
  | mem m => exact m.bytes_length

theorem JumpOp.bytes_length (o : JumpOp) : o.bytes.length + 1 = o.format.length := by cases o <;> rfl

/-- The format of an instruction counts its operand bytes and the opcode (R140). -/
theorem Instr.operandBytes_length (i : Instr) : i.operandBytes.length + 1 = i.format.length := by
  cases i with
  | lda o | ldx o | ldy o | adc o | sbc o | and o | ora o | eor o | cmp o | cpx o | cpy o | bit o =>
    exact o.bytes_length
  | sta m | stx m | sty m | stz m | tsb m | trb m => exact m.bytes_length
  | inc o | dec o | asl o | lsr o | rol o | ror o => exact o.bytes_length
  | jmp o => exact o.bytes_length
  | _ => rfl

theorem encode_length {i : Instr} {op : Byte} {bytes : List Byte} (h : encode i = op :: bytes) :
    (encode i).length = i.format.length := by
  unfold encode at h ⊢
  split at h
  · exact i.operandBytes_length
  · cases h

/-- Settles O2: the decoded instruction and the bytes are those of one cell, whose encoding they are. -/
theorem decodedBytesAreTheEncoding : Obligations.DecodedBytesAreTheEncoding := by
  intro lvl bytes rest i h
  refine ⟨decode_wellFormed h, ?_⟩
  cases bytes with
  | nil => cases h
  | cons op bytes =>
    obtain ⟨b, c, rfl, rfl⟩ := exists_operandBytes_of_decode h
    have hencode := encode_entryAt_instr lvl op b c
    exact ⟨by rw [hencode, List.cons_append], encode_length hencode⟩

/-- A byte that is illegal at the level decodes to itself, whatever follows (R146). -/
theorem decode_of_illegalAt {lvl : IsaLevel} {op : Byte} (rest : List Byte) (h : illegalAt lvl op = true) :
    decode lvl (op :: rest) = .ok (.illegal op, rest) :=
  decodeOfEncodeIsTheInstruction lvl (.illegal op) rest ((wellFormed_illegal lvl op).trans h)

/-- Settles O3: the cell gives the number of operand bytes; a byte decodes as illegal exactly when the illegal term is
well-formed at the level. -/
theorem decodingIsTotalAndGatedByLevel : Obligations.DecodingIsTotalAndGatedByLevel := by
  intro lvl op
  have hcount := (entryAt lvl op).operandCount_le_two
  refine ⟨⟨(entryAt lvl op).operandCount + 1, by omega, by omega, fun operands rest hlen => ?_⟩, fun rest _ => ?_⟩
  · obtain ⟨i, hi⟩ := decode_total lvl op rest (Nat.succ.inj hlen)
    obtain ⟨-, hbytes, hlength⟩ := decodedBytesAreTheEncoding lvl _ _ _ hi
    rw [← List.append_cancel_right hbytes] at hlength
    exact ⟨i, hi, hlength.symm.trans hlen⟩
  · rw [← illegalAt_iff]
    exact ⟨fun h => (wellFormed_illegal lvl op).symm.trans (decode_wellFormed h), decode_of_illegalAt rest⟩

/-- Settles O4: each word is the encoding of its instruction, which decodes to it. -/
theorem writtenWordsDecode : Obligations.WrittenWordsDecode :=
  have decodes (i : Instr) (rest : List Byte) := decodeOfEncodeIsTheInstruction .w65c02s i rest
  ⟨decodes (.lda (.imm 0x42)) [] rfl, decodes (.sta (.abs 0x0200)) [] rfl, decodes (.rmb3 0x10) [] rfl,
    decodes (.bbs7 0x10 0xFD) [] rfl, decodes (.jmp (.ind 0x12FF)) [] rfl, decodes (.jsr 0xE100) [] rfl,
    decodes (.dec .acc) [0x99] rfl, decodes (.lda (.mem (.izy 0x80))) [] rfl, decodes (.illegal 0x02) [] rfl⟩

end Sys2Proof
end

section
/-! The step without an interrupt: its opcode fetch, and the faults of illegal and unreadable opcodes (R146, R400, R402
to R408). -/

namespace Sys2Proof.Machine

/-- ILLEGAL raises its fault with the byte and the address it was fetched from (R405). -/
theorem exec_illegal (op : Byte) (s : State) :
    exec (.illegal op) s = .next (s.latch (.illegalOpcode op (s.pc - 1))) := rfl

/-- A fetch whose bus read faults leaves PC where it is. -/
theorem fetch_error {s t : State} {f : Fault} (h : busRead s.pc s = .error f t) : fetch s = .error f t := by
  simp only [fetch, bind_apply, look_apply, h]

/-- A byte that is illegal at the configured level is executed as ILLEGAL. -/
theorem instrAt_of_illegalAt {op : Byte} {s : State} (h : illegalAt s.cfg.isaLevel op = true) :
    instrAt op s = .illegal op := by
  simp only [instrAt, decode_of_illegalAt _ h]

section
variable {s : State} (hfault : s.fault = none) (hmode : s.mode = .run) (hnmi : s.pendingNmi = false)
  (hirq : s.pendingIrq = true → s.p.i = true)

include hnmi hirq in
/-- With no NMI pending and no IRQ that is let through, the poll enters no interrupt (R400 step 3). -/
theorem pollInterrupts_none : pollInterrupts s = .ok none s := by
  have hmasked : (s.pendingIrq && !s.p.i) = false := by
    cases hq : s.pendingIrq with
    | false => rfl
    | true => simp [hirq hq]
  simp [pollInterrupts, hnmi, hmasked]

include hfault hmode hnmi hirq

/-- A step that enters no interrupt fetches an opcode and executes its instruction (R400 steps 4 to 6). -/
theorem step_of_fetch_ok {op : Byte} {t : State} (h : fetch s = .ok op t) : step s = exec (instrAt op t) t := by
  simp only [step_run hfault hmode, runInstruction, pollAndFetch, bind_apply, pollInterrupts_none hnmi hirq, h,
    pure_apply]

/-- If the opcode cannot be fetched, the step ends with that fault latched (R402). -/
theorem step_of_fetch_error {f : Fault} {t : State} (h : fetch s = .error f t) : step s = .next (t.latch f) := by
  simp only [step_run hfault hmode, runInstruction, pollAndFetch, bind_apply, pollInterrupts_none hnmi hirq, h]

theorem step_of_illegalAt {op : Byte} (hop : illegalAt s.cfg.isaLevel op = true) (hmem : s.memByte s.pc = some op) :
    step s = .next ((s.tick.setPc (s.pc + 1)).latch (.illegalOpcode op s.pc)) := by
  rw [step_of_fetch_ok hfault hmode hnmi hirq (fetch_memByte hmem), instrAt_of_illegalAt (by simpa using hop),
    exec_illegal, State.setPc_pc, BitVec.add_sub_cancel]

end

/-- Settles O6: the step is one fetch, of an illegal byte or ending in the bus fault. -/
theorem illegalAndUnreadableOpcodesLatchFaults : Obligations.IllegalAndUnreadableOpcodesLatchFaults := by
  refine ⟨exec_illegal, fun s hfault hmode hnmi hirq =>
    ⟨fun op hop hmem => ?_, fun hhole => ?_, fun hfallback hstrict => ?_⟩⟩
  · exact step_of_illegalAt hfault hmode hnmi hirq (illegalAt_iff.mpr (.inl hop)) hmem
  · exact step_of_fetch_error hfault hmode hnmi hirq (fetch_error (busRead_hole hhole))
  · have hread := busRead_fallback hfallback
    rw [if_pos hstrict] at hread
    exact step_of_fetch_error hfault hmode hnmi hirq (fetch_error hread)

end Sys2Proof.Machine
end

section
/-! Operand access (R172 to R186): the value, the cost and the frame of the accesses that an effective address is made
of, and the operand that is read there. -/

namespace Sys2Proof.Machine

open Sys2Proof.Claims

variable {α β : Type}

/-- If `x` ends with a value from `s`, the value is `v`, `n` cycles have passed, and nothing but clock, devices and PC
has changed. -/
def Takes (x : Exec α) (s : State) (v : α) (n : Nat) : Prop :=
  ∀ a t, x s = .ok a t → a = v ∧ t.still = s.still ∧ t.cycles = (s.ticks n).cycles

namespace Takes

variable {x : Exec α} {f : α → Exec β} {s : State} {v : α} {w : β} {m n : Nat}

theorem pure (v : α) (s : State) : Takes (Pure.pure v) s v 0 := by
  rintro _ _ ⟨⟩
  exact ⟨rfl, rfl, rfl⟩

theorem internal (s : State) : Takes Machine.internal s () 1 := by
  rintro _ _ ⟨⟩
  exact ⟨rfl, s.tick_still, rfl⟩

/-- The rest starts where nothing but clock, devices and PC has changed; its cycles come on top. -/
theorem bind (hx : Takes x s v m) (hf : ∀ t, t.still = s.still → Takes (f v) t w n) :
    Takes (x >>= f) s w (m + n) := by
  intro b u e
  rw [bind_apply] at e
  cases hxs : x s with
  | error g t => rw [hxs] at e; cases e
  | ok a t =>
    obtain ⟨rfl, ht, htc⟩ := hx a t hxs
    rw [hxs] at e
    obtain ⟨hb, hu, huc⟩ := hf t ht b u e
    have hcfg : t.cfg = (s.ticks m).cfg := State.cfg_of_still (ht.trans (s.ticks_still m).symm)
    refine ⟨hb, hu.trans ht, ?_⟩
    rw [huc, State.ticks_cycles_congr n hcfg htc, State.ticks_ticks]

theorem lookBind {g : State → α} (h : Takes (f (g s)) s w n) : Takes (look g >>= f) s w n := by
  intro b u e
  rw [bind_apply, look_apply] at e
  exact h b u e

theorem operandByte (b : Byte) (s : State) : Takes (Machine.operandByte b) s b 1 := fun _ _ e =>
  ⟨operandByte_value e, (still_frame.operandByte b).ok e, operandByte_cycles e⟩

theorem operandAddr (a : Addr) (s : State) : Takes (Machine.operandAddr a) s a 2 := fun b t e => by
  refine ⟨?_, (still_frame.operandAddr a).ok e, operandAddr_cycles e⟩
  simp only [Machine.operandAddr, bind_apply] at e
  split at e
  · split at e <;> cases e
    rfl
  · cases e

/-- The two bytes of a pointer that memory holds (R177 to R179). -/
theorem readPointer {p : Byte} {w : Addr} (hl : s.memByte (zeroPage p) = some (lo w))
    (hh : s.memByte (zeroPage (p + 1)) = some (hi w)) : Takes (Machine.readPointer p) s w 2 := by
  intro a t e
  rw [readPointer_memByte hl hh] at e
  cases e
  exact ⟨join_hi_lo w, by simp, rfl⟩

end Takes

/-! ## Indexing -/

theorem add_index_toNat (b : Addr) (i : Byte) : (b + i.setWidth 16).toNat = (b.toNat + i.toNat) % 65536 := by
  rw [BitVec.toNat_add, BitVec.toNat_setWidth]
  omega

/-- An index crosses a page exactly when it carries out of the low byte of the base (R185). -/
theorem crossed_index (b : Addr) (i : Byte) :
    crossed b (b + i.setWidth 16) = true ↔ 255 < b.toNat % 256 + i.toNat := by
  rw [crossed_eq, Bool.not_eq_true', decide_eq_false_iff_not, add_index_toNat]
  omega

theorem AccessKind.alwaysIndexes_iff {k : AccessKind} : k.alwaysIndexes = true ↔ k = .write ∨ k = .incDec := by
  cases k <;> simp [alwaysIndexes]

/-- Indexing costs a cycle on a crossed page, and always for the kinds that R176 and R178 name. -/
theorem Takes.indexed (k : AccessKind) (b : Addr) (i : Byte) (s : State) :
    Takes (Machine.indexed k b i) s (b + i.setWidth 16) (indexCost k (b.toNat % 256) i.toNat) := by
  have hcost : (k.alwaysIndexes || crossed b (b + i.setWidth 16)) = true ↔
      k = .write ∨ k = .incDec ∨ 255 < b.toNat % 256 + i.toNat := by
    rw [Bool.or_eq_true, AccessKind.alwaysIndexes_iff, crossed_index, or_assoc]
  intro ea t e
  rw [indexed_ok] at e
  cases e
  refine ⟨rfl, ?_⟩
  simp only [indexCost, hcost]
  split
  · exact ⟨s.tick_still, rfl⟩
  · exact ⟨rfl, rfl⟩

/-! ## Effective addresses -/

theorem zeroPage_add_toNat (z i : Byte) : (zeroPage (z + i)).toNat = (z.toNat + i.toNat) % 256 := by
  rw [zeroPage_toNat, BitVec.toNat_add]

section
variable {reg : State → Byte} (s : State) (hreg : ∀ t : State, t.still = s.still → reg t = reg s)
include hreg

/-- The zero-page modes with an index: the byte, a cycle, and a sum that wraps inside page zero (R174). -/
theorem Takes.zeroPageIndexed (z : Byte) :
    Takes (do
      let z ← Machine.operandByte z
      Machine.internal
      let i ← look reg
      return zeroPage (z + i)) s (zeroPage (z + reg s)) 2 := by
  show Takes _ s _ (1 + (1 + 0))
  refine (Takes.operandByte z s).bind fun t ht => (Takes.internal t).bind fun u hu => .lookBind ?_
  rw [hreg u (hu.trans ht)]
  exact .pure _ u

/-- The absolute modes with an index (R176). -/
theorem Takes.absoluteIndexed (k : AccessKind) (b : Addr) :
    Takes (do
      let b ← Machine.operandAddr b
      let i ← look reg
      Machine.indexed k b i) s (b + (reg s).setWidth 16) (2 + indexCost k (b.toNat % 256) (reg s).toNat) := by
  refine (Takes.operandAddr b s).bind fun t ht => .lookBind ?_
  rw [hreg t ht]
  exact .indexed k b (reg s) t

end

/-- Mode by mode: the address and the cycles of R173 to R179, if an address is formed at all. -/
theorem effectiveAddress_takes (k : AccessKind) (m : Mem) (s : State) {w : Addr} (hw : PointerHolds s m w) :
    ∃ ea : Addr, ea.toNat = addressFormula s w m ∧ Takes (effectiveAddress k m) s ea (addressCost k s w m) := by
  cases m with
  | zp z =>
    refine ⟨zeroPage z, zeroPage_toNat z, ?_⟩
    show Takes _ s _ (1 + 0)
    exact (Takes.operandByte z s).bind fun t _ => .pure _ t
  | zpx z => exact ⟨_, zeroPage_add_toNat z s.x, .zeroPageIndexed s (fun _ => State.x_of_still) z⟩
  | zpy z => exact ⟨_, zeroPage_add_toNat z s.y, .zeroPageIndexed s (fun _ => State.y_of_still) z⟩
  | abs a => exact ⟨a, rfl, .operandAddr a s⟩
  | abx b => exact ⟨_, add_index_toNat b s.x, .absoluteIndexed s (fun _ => State.x_of_still) k b⟩
  | aby b => exact ⟨_, add_index_toNat b s.y, .absoluteIndexed s (fun _ => State.y_of_still) k b⟩
  | izx z =>
    obtain ⟨hl, hh⟩ := hw _ rfl
    refine ⟨w, rfl, ?_⟩
    show Takes _ s w (1 + (1 + 2))
    refine (Takes.operandByte z s).bind fun t ht => (Takes.internal t).bind fun u hu => .lookBind ?_
    have hus := hu.trans ht
    rw [State.x_of_still hus]
    exact .readPointer (by rwa [memByte_of_still hus]) (by rwa [memByte_of_still hus])
  | izy z =>
    obtain ⟨hl, hh⟩ := hw _ rfl
    refine ⟨_, add_index_toNat w s.y, ?_⟩
    rw [addressCost, show 3 = 1 + 2 from rfl, Nat.add_assoc]
    refine (Takes.operandByte z s).bind fun t ht => (Takes.readPointer (w := w) ?_ ?_).bind fun u hu => .lookBind ?_
    · rwa [memByte_of_still ht]
    · rwa [memByte_of_still ht]
    · rw [State.y_of_still (hu.trans ht)]
      exact .indexed k w s.y u
  | izp z =>
    obtain ⟨hl, hh⟩ := hw _ rfl
    refine ⟨w, rfl, ?_⟩
    show Takes _ s w (1 + 2)
    exact (Takes.operandByte z s).bind fun t ht =>
      .readPointer (by rwa [memByte_of_still ht]) (by rwa [memByte_of_still ht])

/-- Settles O12: the address is formed where its bytes can be read; its value and cycles are those of its mode. -/
theorem effectiveAddressesFollowTheModes : Obligations.EffectiveAddressesFollowTheModes := by
  intro k m s h
  obtain ⟨ea, t, e, hstill, hpc⟩ := effectiveAddress_ok (k := k) h
  refine ⟨ea, t, e, hstill, by rwa [← m.bytes_length, Nat.add_sub_cancel], fun w hw => ?_⟩
  obtain ⟨a, ha, htakes⟩ := effectiveAddress_takes k m s hw
  obtain ⟨rfl, -, hcycles⟩ := htakes ea t e
  exact ⟨ha, hcycles⟩

/-! ## Operands -/

theorem readOperand_memByte {m : Mem} {s u : State} {ea : Addr} {v : Byte}
    (e : effectiveAddress .read m s = .ok ea u) (hv : s.memByte ea = some v) :
    readOperand (.mem m) s = .ok v u.tick := by
  have hvu : u.memByte ea = some v := by rwa [memByte_of_still (effectiveAddress_still e)]
  simp only [readOperand, bind_apply, e, busRead_memByte hvu]

/-- Settles O13: an immediate operand is one fetch; a memory operand is one bus read after its effective address. -/
theorem operandIsTheAddressedByte : Obligations.OperandIsTheAddressedByte := by
  refine ⟨fun v s h => ?_, fun m s u ea v => readOperand_memByte⟩
  obtain ⟨u, e, hstill, hpc⟩ := operandByte_ok v h
  exact ⟨u, e, hstill, hpc, operandByte_cycles e⟩

end Sys2Proof.Machine
end

section
/-! What an instruction changes of memory (R184, R187, R333, R336, R360): the bytes at the addresses that `storesOf`
names, and no other. -/

namespace Sys2Proof.Machine

/-- An instruction that stores as told and starts in state `s` may store to address `a`. -/
def Stores.Hits (s : State) (a : Addr) : Stores → Prop
  | .nothing => False
  | .operand k m => ∃ u, effectiveAddress k m s = .ok a u
  | .stack n => ∃ j, j < n ∧ a = stackAddr (s.sp - BitVec.ofNat 8 j)

/-- Memory holds at address `a` what it held. -/
def ByteKept (a : Addr) (s t : State) : Prop := t.memByte a = s.memByte a

/-- Memory holds at address `a` what it held, unless the instruction may store there. -/
def KeptUnlessHit (a : Addr) (w : Stores) (s t : State) : Prop := ¬ w.Hits s a → ByteKept a s t

section
variable {a : Addr}

theorem readFrame_byteKept (a : Addr) : ReadFrame (ByteKept a) where
  refl _ := rfl
  trans _ _ _ h h' := Eq.trans h' h
  tick s := memByte_tick s a
  read b s := memByte_of_still (dispatchRead_still b s) a
  setPc _ _ := rfl

/-- An instruction that stores nothing keeps every byte. -/
theorem instrFrame_byteKept {i : Instr} (hi : storesOf i = .nothing) : InstrFrame (ByteKept a) i where
  toReadFrame := readFrame_byteKept a
  write h := absurd hi h
  setA _ _ _ := rfl
  setX _ _ _ := rfl
  setY _ _ _ := rfl
  setSp _ _ _ := rfl
  setP _ _ _ := rfl
  setMode _ _ _ := rfl
  setDraws _ _ := rfl

theorem busWrite_byteKept {b : Addr} (h : a ≠ b) (v : Byte) : Always (ByteKept a) (busWrite b v) :=
  fun s => busWrite_memByte_other b a v s h

/-! ## Stores to the operand -/

/-- After an effective address is formed, pseudocode that stores there and nowhere else keeps the other bytes; if none
is formed, it keeps them all. -/
theorem always_effectiveAddress_bind {k : AccessKind} {m : Mem} {f : Addr → Exec Unit}
    (hf : ∀ ea, a ≠ ea → Always (ByteKept a) (f ea)) :
    Always (KeptUnlessHit a (.operand k m)) (effectiveAddress k m >>= f) := by
  intro s hmiss
  have hR := readFrame_byteKept a
  rw [bind_apply]
  cases e : effectiveAddress k m s with
  | error g u => exact (hR.effectiveAddress k m).error e
  | ok ea u =>
    have hne : a ≠ ea := fun h => hmiss ⟨u, h ▸ e⟩
    exact hR.trans _ _ _ ((hR.effectiveAddress k m).ok e) (hf ea hne u)

theorem writeOperand_keptUnlessHit (m : Mem) (value : State → Byte) :
    Always (KeptUnlessHit a (.operand .write m)) (writeOperand m value) :=
  have hR := readFrame_byteKept a
  always_effectiveAddress_bind fun _ hne => hR.bind (hR.look _) fun _ => busWrite_byteKept hne _

theorem modifyMem_keptUnlessHit (k : AccessKind) (m : Mem) (f : Modification) :
    Always (KeptUnlessHit a (.operand k m)) (modifyMem k m f) :=
  have hR := readFrame_byteKept a
  always_effectiveAddress_bind fun _ hne => hR.bind (hR.busRead _) fun _ => hR.bind hR.internal fun _ =>
    hR.bind (BusFrame.applyModification f _ fun _ => rfl) fun _ => busWrite_byteKept hne _

/-- An instruction that stores to its operand does nothing else to memory. -/
theorem exec_operand {i : Instr} {k : AccessKind} {m : Mem} (hi : storesOf i = .operand k m) :
    ∃ x : Exec Unit, (∀ s, exec i s = run x s) ∧ Always (KeptUnlessHit a (.operand k m)) x := by
  cases i with
  | sta o | stx o | sty o | stz o =>
    cases hi
    exact ⟨_, fun _ => rfl, writeOperand_keptUnlessHit _ _⟩
  | asl o | lsr o | rol o | ror o | inc o | dec o =>
    cases o with
    | acc => cases hi
    | mem o =>
      cases hi
      exact ⟨_, fun _ => rfl, modifyMem_keptUnlessHit _ _ _⟩
  | tsb o | trb o
  | rmb0 o | rmb1 o | rmb2 o | rmb3 o | rmb4 o | rmb5 o | rmb6 o | rmb7 o
  | smb0 o | smb1 o | smb2 o | smb3 o | smb4 o | smb5 o | smb6 o | smb7 o =>
    cases hi
    exact ⟨_, fun _ => rfl, modifyMem_keptUnlessHit _ _ _⟩
  | _ => cases hi

/-! ## Stores to the stack -/

/-- The byte at address `a` and the stack pointer are what they were. -/
def ByteAndSpKept (a : Addr) (s t : State) : Prop := ByteKept a s t ∧ t.sp = s.sp

theorem readFrame_byteAndSpKept (a : Addr) : ReadFrame (ByteAndSpKept a) where
  refl _ := ⟨rfl, rfl⟩
  trans := fun _ _ _ ⟨hbyte, hsp⟩ ⟨hbyte', hsp'⟩ => ⟨hbyte'.trans hbyte, hsp'.trans hsp⟩
  tick s := ⟨memByte_tick s a, s.tick_sp⟩
  read b s := ⟨memByte_of_still (dispatchRead_still b s) a, State.sp_of_still (dispatchRead_still b s)⟩
  setPc _ _ := ⟨rfl, rfl⟩

section
variable {α : Type} {x : Exec α} {f : α → Exec Unit} {n : Nat}

/-- What pushes nothing keeps the byte whatever the instruction may store. -/
theorem Always.keptUnlessHit {x : Exec Unit} (hx : Always (ByteAndSpKept a) x) (w : Stores) :
    Always (KeptUnlessHit a w) x := fun s _ => (hx s).1

/-- What pushes nothing leaves the stack addresses of what follows as they are. -/
theorem Always.bind_stack (hx : Always (ByteAndSpKept a) x) (hf : ∀ v, Always (KeptUnlessHit a (.stack n)) (f v)) :
    Always (KeptUnlessHit a (.stack n)) (x >>= f) := by
  intro s hmiss
  rw [bind_apply]
  cases e : x s with
  | error g u => exact (hx.error e).1
  | ok v u =>
    obtain ⟨hkept, hsp⟩ := hx.ok e
    refine (hf v u ?_).trans hkept
    rwa [Stores.Hits, hsp]

end

theorem push_sp {s t : State} {v : Byte} (e : push v s = .ok () t) : t.sp = s.sp - 1 := by
  have hsp := busWrite_sp (stackAddr s.sp) v s
  simp only [push, bind_apply, look_apply] at e
  cases hw : busWrite (stackAddr s.sp) v s with
  | error f u => rw [hw] at e; cases e
  | ok _ u =>
    rw [hw] at e hsp
    cases e
    exact congrArg (· - 1) hsp

/-- A push stores at the stack pointer alone. -/
theorem push_memByte_other {s : State} (hne : a ≠ stackAddr s.sp) (v : Byte) :
    ByteKept a s (endState (push v s)) := by
  have hkept := busWrite_memByte_other (stackAddr s.sp) a v s hne
  simp only [push, bind_apply, look_apply]
  cases hw : busWrite (stackAddr s.sp) v s <;> rw [hw] at hkept <;> exact hkept

theorem push_keptUnlessHit (v : Byte) (n : Nat) : Always (KeptUnlessHit a (.stack (n + 1))) (push v) :=
  fun s hmiss => push_memByte_other (fun h => hmiss ⟨0, n.succ_pos, by simpa using h⟩) v

theorem sp_sub_succ (sp : Byte) (j : Nat) : sp - BitVec.ofNat 8 (j + 1) = sp - 1 - BitVec.ofNat 8 j := by bv_omega

/-- A push leaves one address less to what follows: those from the new stack pointer down. -/
theorem push_bind_keptUnlessHit (v : Byte) {n : Nat} {f : Unit → Exec Unit}
    (hf : Always (KeptUnlessHit a (.stack n)) (f ())) :
    Always (KeptUnlessHit a (.stack (n + 1))) (push v >>= f) := by
  intro s hmiss
  have hpush := push_keptUnlessHit v n s hmiss
  rw [bind_apply]
  cases e : push v s with
  | error g u => rwa [e] at hpush
  | ok _ u =>
    rw [e] at hpush
    refine (hf u fun ⟨j, hj, ha⟩ => hmiss ⟨j + 1, Nat.succ_lt_succ hj, ?_⟩).trans hpush
    rw [ha, push_sp e, sp_sub_succ]

theorem pushInstr_keptUnlessHit (value : State → Byte) : Always (KeptUnlessHit a (.stack 1)) (pushInstr value) :=
  have hR := readFrame_byteAndSpKept a
  hR.internal.bind_stack fun _ => (hR.look _).bind_stack fun _ => push_keptUnlessHit _ 0

theorem jumpSubroutine_keptUnlessHit (t : Addr) : Always (KeptUnlessHit a (.stack 2)) (jumpSubroutine t) :=
  have hR := readFrame_byteAndSpKept a
  (hR.operandAddr t).bind_stack fun _ => hR.internal.bind_stack fun _ => (hR.look _).bind_stack fun _ =>
    push_bind_keptUnlessHit _ (push_bind_keptUnlessHit _ ((Sequencing.update fun s => hR.setPc s _).keptUnlessHit _))

theorem takeException_keptUnlessHit (b : Bool) (vec : Addr) :
    Always (KeptUnlessHit a (.stack 3)) (takeException b vec) :=
  have hR := readFrame_byteAndSpKept a
  have hP : Always (ByteAndSpKept a) (update fun s => s.setP { s.p with i := true, d := false }) :=
    Sequencing.update fun _ => ⟨rfl, rfl⟩
  (hR.look _).bind_stack fun _ => push_bind_keptUnlessHit _ <| push_bind_keptUnlessHit _ <|
    (hR.look _).bind_stack fun _ => push_bind_keptUnlessHit _ <| hP.bind_stack fun _ => (hR.loadVector vec).keptUnlessHit _

theorem softwareInterrupt_keptUnlessHit (pad : Byte) :
    Always (KeptUnlessHit a (.stack 3)) (softwareInterrupt pad) := by
  have hR := readFrame_byteAndSpKept a
  refine (hR.look _).bind_stack fun mode => ?_
  cases mode with
  | fatal => exact (hR.bind (hR.look _) fun _ => hR.raise _).keptUnlessHit _
  | architectural => exact (hR.operandByte pad).bind_stack fun _ => takeException_keptUnlessHit _ _

/-- An instruction that pushes does nothing else to memory. -/
theorem exec_stack {i : Instr} {n : Nat} (hi : storesOf i = .stack n) :
    ∃ x : Exec Unit, (∀ s, exec i s = run x s) ∧ Always (KeptUnlessHit a (.stack n)) x := by
  cases i with
  | pha | php | phx | phy =>
    cases hi
    exact ⟨_, fun _ => rfl, pushInstr_keptUnlessHit _⟩
  | jsr t =>
    cases hi
    exact ⟨_, fun _ => rfl, jumpSubroutine_keptUnlessHit t⟩
  | brk pad =>
    cases hi
    exact ⟨_, fun _ => rfl, softwareInterrupt_keptUnlessHit pad⟩
  | asl o | lsr o | rol o | ror o | inc o | dec o => cases o <;> cases hi
  | _ => cases hi

/-! ## All instructions -/

/-- Every instruction is pseudocode that keeps the bytes it may not store to. -/
theorem exec_always_keptUnlessHit (i : Instr) (a : Addr) :
    ∃ x : Exec Unit, (∀ s, exec i s = run x s) ∧ Always (KeptUnlessHit a (storesOf i)) x := by
  cases hi : storesOf i with
  | nothing =>
    obtain ⟨x, hx, hkept⟩ := exec_always i (instrFrame_byteKept (a := a) hi)
    exact ⟨x, hx, fun s _ => hkept s⟩
  | operand k m => exact exec_operand hi
  | stack n => exact exec_stack hi

/-- Latching a fault leaves memory alone, so the same holds of an instruction's next state. -/
theorem exec_keptUnlessHit {i : Instr} {s t : State} (e : exec i s = .next t) (a : Addr) :
    KeptUnlessHit a (storesOf i) s t := by
  obtain ⟨x, hx, hkept⟩ := exec_always_keptUnlessHit i a
  rw [hx] at e
  rcases hkept.run e with h | ⟨f, u, h, rfl⟩
  · exact h
  · exact h

end

/-- Settles O37: each clause says that the instruction may not store to the address. -/
theorem onlyTheStoredBytesChange : Obligations.OnlyTheStoredBytesChange := by
  intro i s t e a
  have hkept := exec_keptUnlessHit e a
  refine ⟨fun hi => ?_, fun k m ea u hi hea hne => ?_, fun k m f u hi hea => ?_, fun n hi hmiss => ?_⟩ <;>
    rw [hi] at hkept
  · exact hkept not_false
  · refine hkept fun ⟨v, hv⟩ => hne ?_
    rw [hea] at hv
    cases hv
    rfl
  · refine hkept fun ⟨v, hv⟩ => ?_
    rw [hea] at hv
    cases hv
  · exact hkept fun ⟨j, hj, ha⟩ => hmiss j hj ha

end Sys2Proof.Machine
end

section
/-! Loads, stores and transfers (R200 to R212): what the three shared operations `load`, `writeOperand` and `transfer`
do, once for every register. -/

namespace Sys2Proof.Machine

open Sys2Proof.Claims

/-! ## N and Z -/

theorem bit_seven (v : Byte) : bit v 7 = decide (128 ≤ v.toNat) := by
  rw [bit, ← BitVec.msb_eq_getLsbD_last v, BitVec.msb_eq_decide]

/-- `SetNZ` in arithmetic: N is bit 7, Z is the value 0 (R24). -/
theorem Flags.setNZ_eq_withNZ (p : Flags) (v : Byte) : p.setNZ v = withNZ p v := by
  have hz : (v == 0) = decide (v.toNat = 0) := decide_eq_decide.mpr BitVec.toNat_inj.symm
  rw [Flags.setNZ, bit_seven, hz, withNZ]

theorem State.setNZ_eq_withNZ (s : State) (v : Byte) : s.setNZ v = { s with p := withNZ s.p v } := by
  rw [State.setNZ, Flags.setNZ_eq_withNZ, State.setP]

/-! ## Loads -/

theorem loads_of_exec_load {mk : ReadOp → Instr} {set : State → Byte → State}
    (hexec : ∀ o s, exec (mk o) s = run (load o set) s) (hflags : ∀ u m, (set u m).p = u.p) : Loads mk set := by
  intro o s
  refine ⟨fun hreads => ?_, fun f u e => ?_⟩
  · obtain ⟨m, u, e, -, -⟩ := readOperand_ok hreads
    refine ⟨m, u, e, ?_⟩
    simp only [hexec, run_apply, load, bind_apply, e, update_apply, finish_ok, State.setNZ_eq_withNZ, hflags]
  · rw [hexec, run_apply, load, bind_apply, e, finish_error]

/-- Settles O14: the three loads are one operation, and the rules list their opcodes in another order. -/
theorem loadsSetRegisterAndNZ : Obligations.LoadsSetRegisterAndNZ := by
  refine ⟨loads_of_exec_load (set := State.setA) (fun _ _ => rfl) fun _ _ => rfl,
    loads_of_exec_load (set := State.setX) (fun _ _ => rfl) fun _ _ => rfl,
    loads_of_exec_load (set := State.setY) (fun _ _ => rfl) fun _ _ => rfl,
    fun o => ⟨fun e => ?_, fun e => ?_, fun e => ?_⟩⟩
  · exact List.Perm.mem_iff (l₁ := (Instr.lda (.imm 0)).opcodes) (by decide)
  · exact List.Perm.mem_iff (l₁ := (Instr.ldx (.imm 0)).opcodes) (by decide)
  · exact List.Perm.mem_iff (l₁ := (Instr.ldy (.imm 0)).opcodes) (by decide)

/-! ## Stores -/

/-- Equal but for clock and devices, apart from RAM. -/
theorem State.still_setRam_congr {s t : State} (h : t.still = s.still) (b : Bank) :
    (t.setRam b).still = (s.setRam b).still := congrArg (State.setRam · b) h

/-- A bus write to RAM changes that byte, and nothing else but clock and devices. -/
theorem busWrite_ram_frame {a : Addr} {v : Byte} {s t : State} (hram : inRam s.cfg a = true)
    (hwf : Memory.wf s.ram.cells = true) (e : busWrite a v s = .ok () t) :
    t.still = (s.setRam t.ram).still ∧ t.memByte a = some v := by
  obtain ⟨b, e', -, hbyte, -⟩ := busWrite_ram v hram
  rw [e'] at e
  cases e
  exact ⟨State.still_setRam_congr s.tick_still b, hbyte hwf⟩

theorem storesValue_of_exec_writeOperand {mk : Mem → Instr} {value : State → Byte}
    (hexec : ∀ o s, exec (mk o) s = run (writeOperand o value) s)
    (hvalue : ∀ {s t : State}, t.still = s.still → value t = value s) : StoresValue mk value := by
  intro o s
  have hwrite : ∀ ea u, effectiveAddress .write o s = .ok ea u →
      exec (mk o) s = finish (busWrite ea (value s) u) := fun ea u e => by
    simp only [hexec, run_apply, writeOperand, bind_apply, e, look_apply, hvalue (effectiveAddress_still e)]
  refine ⟨hwrite, fun f u e => ?_, fun hreaches => ?_⟩
  · rw [hexec, run_apply, writeOperand, bind_apply, e, finish_error]
  · obtain ⟨ea, u, e, hstill, -, hwritable⟩ := reaches_iff hreaches
    obtain ⟨t, et⟩ := busWrite_ok (value s) ((State.cfg_of_still hstill).symm ▸ hwritable)
    refine ⟨ea, u, t, e, et, by rw [hwrite ea u e, et, finish_ok], fun b hb => ?_, fun hram hwf => ?_⟩
    · have hother := busWrite_memByte_other ea b (value s) u hb
      rwa [et, endState_ok, memByte_of_still hstill] at hother
    · rw [← State.cfg_of_still hstill] at hram
      rw [← State.ram_of_still hstill] at hwf
      obtain ⟨hframe, hbyte⟩ := busWrite_ram_frame hram hwf et
      exact ⟨hframe.trans (State.still_setRam_congr hstill t.ram), hbyte⟩

/-- Settles O15: the four stores are one operation, and forming an address leaves the value to be stored as it was. -/
theorem storesWriteTheRegister : Obligations.StoresWriteTheRegister :=
  ⟨storesValue_of_exec_writeOperand (fun _ _ => rfl) State.a_of_still,
    storesValue_of_exec_writeOperand (fun _ _ => rfl) State.x_of_still,
    storesValue_of_exec_writeOperand (fun _ _ => rfl) State.y_of_still,
    storesValue_of_exec_writeOperand (fun _ _ => rfl) fun _ => rfl⟩

/-! ## Transfers -/

theorem implied_of_exec_transfer {i : Instr} {get : State → Byte} {set : State → Byte → State}
    (hexec : ∀ s, exec i s = run (transfer get set) s) (hflags : ∀ t v, (set t v).p = t.p) :
    Implied i fun t => { set t (get t) with p := withNZ t.p (get t) } := by
  intro s
  simp only [hexec, run_apply, transfer, bind_apply, internal_apply, update_apply, finish_ok, State.setNZ_eq_withNZ,
    hflags]

/-- Settles O16: five transfers are one operation; TXS is an internal cycle and the copy. -/
theorem transfersCopyRegisters : Obligations.TransfersCopyRegisters :=
  ⟨implied_of_exec_transfer (get := State.a) (set := State.setX) (fun _ => rfl) fun _ _ => rfl,
    implied_of_exec_transfer (get := State.a) (set := State.setY) (fun _ => rfl) fun _ _ => rfl,
    implied_of_exec_transfer (get := State.x) (set := State.setA) (fun _ => rfl) fun _ _ => rfl,
    implied_of_exec_transfer (get := State.y) (set := State.setA) (fun _ => rfl) fun _ _ => rfl,
    implied_of_exec_transfer (get := State.sp) (set := State.setX) (fun _ => rfl) fun _ _ => rfl,
    fun _ => rfl, rfl, rfl, rfl, rfl, rfl, rfl⟩

end Sys2Proof.Machine
end

section
/-! The adders in plain arithmetic (R240 to R242, R258): what `addBinary`, `addDecimal` and `subDecimal` return, with V
said once for all of them. -/

namespace Sys2Proof.Machine

open Sys2Proof.Claims

theorem toNat_eq_num (c : Bool) : c.toNat = num c := by cases c <;> rfl

theorem num_le_one (c : Bool) : num c ≤ 1 := by cases c <;> decide

/-! ## The signed overflow -/

theorem signOverflow_eq_msb (a m s : Byte) : signOverflow a m s = (a.msb == m.msb && a.msb != s.msb) := by
  have hmask : ∀ v : Byte, (v &&& 0x80 != 0) = v.msb := by decide
  rw [signOverflow, hmask]
  simp only [BitVec.msb_and, BitVec.msb_xor, BitVec.msb_not]
  cases a.msb <;> cases m.msb <;> cases s.msb <;> decide

/-- V is that the signed sum of `x`, `y` and the carried-in `k` is outside the byte's range, as long as `k` does not
carry past the sign. The operands `a` and `m` that V is computed from need only have the signs of `x` and `y`. -/
theorem signOverflow_sum {a m x y : Byte} {k : Nat} (ha : a.msb = x.msb) (hm : m.msb = y.msb)
    (hk : x.toNat % 128 + y.toNat % 128 + k ≤ 255) :
    signOverflow a m (BitVec.ofNat 8 (x.toNat + y.toNat + k)) = outsideByte (x.toInt + y.toInt + k) := by
  rw [signOverflow_eq_msb, ha, hm, Bool.eq_iff_iff]
  simp only [outsideByte, BitVec.msb_eq_decide, BitVec.toInt_eq_toNat_cond, BitVec.toNat_ofNat, Bool.and_eq_true,
    Bool.or_eq_true, beq_iff_eq, bne_iff_ne, ne_eq, decide_eq_true_eq, decide_eq_decide]
  split <;> split <;> omega

/-! ## Binary (R240) -/

theorem addBinary_eq (a m : Byte) (c : Bool) : addBinary a m c =
    { r := BitVec.ofNat 8 (a.toNat + m.toNat + num c)
      c := decide (255 < a.toNat + m.toNat + num c)
      v := outsideByte (a.toInt + m.toInt + num c) } := by
  have hc := num_le_one c
  rw [addBinary, toNat_eq_num, signOverflow_sum rfl rfl (by omega)]

theorem complement_toNat (m : Byte) : (m ^^^ 0xFF).toNat = 255 - m.toNat := by
  rw [show m ^^^ 0xFF = ~~~m from BitVec.xor_allOnes, BitVec.toNat_not]

theorem complement_toInt (m : Byte) : (m ^^^ 0xFF).toInt = -1 - m.toInt := by
  rw [BitVec.toInt_eq_toNat_cond, BitVec.toInt_eq_toNat_cond, complement_toNat]
  split <;> split <;> omega

/-- Adding the complement subtracts: C is then that there was no borrow (R244). -/
theorem addBinary_complement (a m : Byte) (c : Bool) : addBinary a (m ^^^ 0xFF) c =
    { r := BitVec.ofInt 8 (a.toNat - m.toNat - (1 - num c))
      c := decide (m.toNat + (1 - num c) ≤ a.toNat)
      v := outsideByte (a.toInt - m.toInt - (1 - num c)) } := by
  have hc := num_le_one c
  rw [addBinary_eq, complement_toNat, complement_toInt, Sum.mk.injEq]
  refine ⟨?_, ?_, ?_⟩
  · apply BitVec.eq_of_toNat_eq
    rw [BitVec.toNat_ofNat, BitVec.toNat_ofInt]
    omega
  · exact decide_eq_decide.mpr (by omega)
  · congr 1
    omega

/-! ## Decimal (R241, R242) -/

theorem highDigit_toNat (v : Byte) : (v &&& 0xF0).toNat = v.toNat / 16 * 16 := by
  revert v
  decide

theorem highDigit_msb (v : Byte) : v.msb = (v &&& 0xF0).msb := by
  rw [BitVec.msb_and]
  exact (Bool.and_true _).symm

theorem decimalLow_eq_lowSum (a m : Byte) (c : Bool) : decimalLow a m c = lowSum a m c := by
  rw [decimalLow, lowSum, toNat_eq_num]
  rfl

theorem validBcd_iff {v : Byte} : validBcd v = true ↔ v.toNat % 16 ≤ 9 ∧ v.toNat / 16 ≤ 9 := by
  simp only [validBcd, Bool.and_eq_true, decide_eq_true_eq]

/-- Adding two decimal digits and a carry gives a digit and a carry. -/
theorem exists_digit_add {x y b : Nat} (hx : x ≤ 9) (hy : y ≤ 9) (hb : b ≤ 1) :
    ∃ k d, k ≤ 1 ∧ d ≤ 9 ∧ x + y + b = k * 10 + d :=
  ⟨(x + y + b) / 10, (x + y + b) % 10, by omega, by omega, by omega⟩

/-- Subtracting a decimal digit and a borrow gives a digit and a borrow. -/
theorem exists_digit_sub {x y b : Nat} (hx : x ≤ 9) (hy : y ≤ 9) (hb : b ≤ 1) :
    ∃ k d, k ≤ 1 ∧ d ≤ 9 ∧ x + k * 10 = y + b + d :=
  ⟨if x < y + b then 1 else 0, if x < y + b then x + 10 - (y + b) else x - (y + b),
    by split <;> omega, by split <;> omega, by split <;> omega⟩

/-- The BCD of a number is its two digits. -/
theorem bcd_digits {n h l : Nat} (hl : l ≤ 9) (hn : n = h * 10 + l) : bcd n = BitVec.ofNat 8 (h * 16 + l) := by
  rw [bcd, show n / 10 = h by omega, show n % 10 = l by omega]

/-- The low sum is the low digit and its carry into the high digit. -/
theorem lowSum_eq {a m : Byte} {c : Bool} {k l : Nat} (hk : k ≤ 1) (hl : l ≤ 9)
    (hsum : a.toNat % 16 + m.toNat % 16 + num c = k * 10 + l) : lowSum a m c = k * 16 + l := by
  simp only [lowSum, hsum]
  have hcarry := Nat.le_one_iff_eq_zero_or_eq_one.mp hk
  split <;> omega

/-- The decimal sum of BCD bytes, digit by digit. -/
theorem addDecimal_eq {a m : Byte} (ha : validBcd a = true) (hm : validBcd m = true) (c : Bool) : addDecimal a m c =
    { r := bcd ((dec a + dec m + num c) % 100)
      c := decide (99 < dec a + dec m + num c)
      v := outsideByte ((a &&& 0xF0).toInt + (m &&& 0xF0).toInt + lowSum a m c) } := by
  obtain ⟨hal, hah⟩ := validBcd_iff.mp ha
  obtain ⟨hml, hmh⟩ := validBcd_iff.mp hm
  obtain ⟨k, l, hk, hl, hlow⟩ := exists_digit_add hal hml (num_le_one c)
  obtain ⟨q, h, hq, hh, hhigh⟩ := exists_digit_add hah hmh hk
  have hcarry := Nat.le_one_iff_eq_zero_or_eq_one.mp hq
  have hsum : dec a + dec m + num c = q * 100 + (h * 10 + l) := by rw [dec, dec]; omega
  have hs : a.toNat / 16 * 16 + m.toNat / 16 * 16 + lowSum a m c = q * 160 + (h * 16 + l) := by
    rw [lowSum_eq hk hl hlow]; omega
  have ht : (if 0xA0 ≤ q * 160 + (h * 16 + l) then q * 160 + (h * 16 + l) + 0x60 else q * 160 + (h * 16 + l)) =
      q * 256 + (h * 16 + l) := by split <;> omega
  have hv := signOverflow_sum (k := lowSum a m c) (highDigit_msb a) (highDigit_msb m)
    (by rw [highDigit_toNat, highDigit_toNat, lowSum_eq hk hl hlow]; omega)
  rw [highDigit_toNat, highDigit_toNat] at hv
  rw [addDecimal, decimalLow_eq_lowSum, hv, Sum.mk.injEq, hs, ht, hsum]
  refine ⟨?_, decide_eq_decide.mpr (by omega), rfl⟩
  rw [bcd_digits (h := h) hl (by omega)]
  apply BitVec.eq_of_toNat_eq
  rw [BitVec.toNat_ofNat, BitVec.toNat_ofNat]
  omega

/-- The decimal difference of BCD bytes, digit by digit. -/
theorem subDecimal_eq {a m : Byte} (ha : validBcd a = true) (hm : validBcd m = true) (c : Bool) : subDecimal a m c =
    { r := bcd ((dec a + 100 - dec m - (1 - num c)) % 100)
      c := decide (dec m + (1 - num c) ≤ dec a)
      v := outsideByte (a.toInt - m.toInt - (1 - num c)) } := by
  obtain ⟨hal, hah⟩ := validBcd_iff.mp ha
  obtain ⟨hml, hmh⟩ := validBcd_iff.mp hm
  obtain ⟨k, l, hk, hl, hlow⟩ := exists_digit_sub hal hml (Nat.sub_le 1 (num c))
  obtain ⟨q, h, hq, hh, hhigh⟩ := exists_digit_sub hah hmh hk
  have hc := num_le_one c
  have hdiff : dec a + q * 100 = dec m + (1 - num c) + (h * 10 + l) := by rw [dec, dec]; omega
  rw [subDecimal, addBinary_complement, Sum.mk.injEq, toNat_eq_num]
  refine ⟨?_, decide_eq_decide.mpr (by omega), rfl⟩
  rw [bcd_digits (h := h) hl (by omega)]
  apply BitVec.eq_of_toNat_eq
  rw [BitVec.toNat_ofNat, BitVec.toNat_ofInt]
  split <;> split <;> omega

end Sys2Proof.Machine
end

section
/-! The shared operations on A, the flags and an operand (R240 to R251): a read of the operand, then one change of the
state. -/

namespace Sys2Proof.Machine

open Sys2Proof.Claims

/-! ## An operand, then a change -/

section
variable {o : ReadOp} {s u : State}

theorem run_readOperand_update {m : Byte} (e : readOperand o s = .ok m u) (g : Byte → State → State) :
    run (do
      let m ← readOperand o
      update (g m)) s = .next (g m u) := by
  simp only [run_apply, bind_apply, e, update_apply, finish_ok]

theorem run_readOperand_error {f : Fault} (e : readOperand o s = .error f u) (k : Byte → Exec Unit) :
    run (readOperand o >>= k) s = .next (u.latch f) := by
  rw [run_apply, bind_apply, e, finish_error]

end

/-! ## Logic (R245 to R247) -/

theorem combines_of_exec_logic {mk : ReadOp → Instr} {g : Byte → Byte → Byte}
    (hexec : ∀ o s, exec (mk o) s = run (logic o g) s) : Combines mk g := by
  intro o s
  refine ⟨fun hreads => ?_, fun f u e => (hexec o s).trans (run_readOperand_error e _)⟩
  obtain ⟨m, u, e, hstill, -⟩ := readOperand_ok hreads
  refine ⟨m, u, e, ?_⟩
  rw [hexec, logic, run_readOperand_update e, State.setNZ_eq_withNZ, State.a_of_still hstill]
  rfl

/-- Settles O20: the three are one operation, and reading the operand leaves A as it was. -/
theorem logicCombinesWithA : Obligations.LogicCombinesWithA :=
  ⟨combines_of_exec_logic fun _ _ => rfl, combines_of_exec_logic fun _ _ => rfl, combines_of_exec_logic fun _ _ => rfl⟩

/-! ## Compares (R248 to R250) -/

theorem sub_eq_ofInt (r m : Byte) : r - m = BitVec.ofInt 8 (r.toNat - m.toNat) := by
  apply BitVec.eq_of_toNat_eq
  rw [BitVec.toNat_sub, BitVec.toNat_ofInt]
  omega

theorem Flags.compare_eq (p : Flags) (r m : Byte) : p.compare r m =
    { withNZ p (BitVec.ofInt 8 (r.toNat - m.toNat)) with c := decide (m.toNat ≤ r.toNat) } := by
  rw [Flags.compare, Flags.setNZ_eq_withNZ, sub_eq_ofInt]
  rfl

theorem compares_of_exec_compare {mk : ReadOp → Instr} {reg : State → Byte}
    (hexec : ∀ o s, exec (mk o) s = run (compare o reg) s)
    (hreg : ∀ {s t : State}, t.still = s.still → reg t = reg s) : Compares mk reg := by
  intro o s
  refine ⟨fun hreads => ?_, fun f u e => (hexec o s).trans (run_readOperand_error e _)⟩
  obtain ⟨m, u, e, hstill, -⟩ := readOperand_ok hreads
  refine ⟨m, u, e, ?_⟩
  rw [hexec, compare, run_readOperand_update e, Flags.compare_eq, hreg hstill]
  rfl

/-- Settles O21: the three are one operation, and reading the operand leaves the register as it was. -/
theorem comparesSetNZC : Obligations.ComparesSetNZC :=
  ⟨compares_of_exec_compare (fun _ _ => rfl) State.a_of_still,
    compares_of_exec_compare (fun _ _ => rfl) State.x_of_still,
    compares_of_exec_compare (fun _ _ => rfl) State.y_of_still⟩

/-! ## BIT (R251) -/

theorem bit_six (v : Byte) : bit v 6 = decide (64 ≤ v.toNat % 128) := by
  rw [bit, BitVec.getLsbD, Nat.testBit_eq_decide_div_mod_eq, decide_eq_decide]
  omega

theorem exec_bit_ok {o : ReadOp} {s u : State} {v : Byte} (e : readOperand o s = .ok v u) :
    exec (.bit o) s = .next (u.setP (u.p.bitTest (isImmediate o) s.a v)) := by
  rw [← State.a_of_still (readOperand_still e)]
  exact run_readOperand_update e _

/-- Settles O22: the two kinds of operand differ in `bitTest` alone. -/
theorem bitTestsTheOperand : Obligations.BitTestsTheOperand := by
  intro s
  refine ⟨fun m hreads => ?_, fun v hreads => ?_, fun o f u e => run_readOperand_error e _⟩
  · obtain ⟨v, u, e, -, -⟩ := readOperand_ok hreads
    refine ⟨v, u, e, ?_⟩
    rw [exec_bit_ok e, ← bit_seven, ← bit_six]
    rfl
  · obtain ⟨u, e, -, -⟩ := operandByte_ok v (fetchable_one hreads)
    exact ⟨u, e, exec_bit_ok (o := .imm v) e⟩

/-! ## ADC and SBC (R240 to R244, R258) -/

theorem State.putSum_eq (s : State) (r : Sum) :
    s.putSum r = { s with a := r.r, p := { withNZ s.p r.r with c := r.c, v := r.v } } := by
  rw [State.putSum, Flags.afterSum, Flags.setNZ_eq_withNZ]
  rfl

/-- U3: five open values, and one draw. -/
theorem State.putFree_eq (s : State) : ∃ a n v z c,
    s.putFree = { s with a := a, p := { s.p with n := n, v := v, z := z, c := c }, draws := s.draws + 1 } :=
  ⟨_, _, _, _, _, rfl⟩

section
variable {o : ReadOp} {binary decimal : Byte → Byte → Bool → Sum} {s u : State} {m : Byte}
  (e : readOperand o s = .ok m u)
include e

theorem run_addSub_binary (hd : s.p.d = false) :
    run (addSub o binary decimal) s = .next (u.putSum (binary s.a m s.p.c)) := by
  have hstill := readOperand_still e
  rw [← State.p_of_still hstill] at hd ⊢
  rw [← State.a_of_still hstill]
  simp only [run_apply, addSub, bind_apply, e, look_apply, hd, Bool.false_eq_true, if_false, update_apply, finish_ok]

/-- Decimal mode: one more cycle, then the decimal result (R243, R244). -/
theorem run_addSub_decimal (hd : s.p.d = true) :
    run (addSub o binary decimal) s = .next (u.tick.putDecimal m (decimal s.a m s.p.c)) := by
  have hstill := readOperand_still e
  rw [← State.p_of_still hstill] at hd ⊢
  rw [← State.a_of_still hstill]
  simp only [run_apply, addSub, bind_apply, e, look_apply, hd, if_true, internal_apply, update_apply, finish_ok,
    State.tick_a, State.tick_p]

theorem run_addSub_bcd (hd : s.p.d = true) (ha : validBcd s.a = true) (hm : validBcd m = true) :
    run (addSub o binary decimal) s = .next (u.tick.putSum (decimal s.a m s.p.c)) := by
  rw [run_addSub_decimal e hd, State.putDecimal, State.tick_a, State.a_of_still (readOperand_still e), ha, hm]
  rfl

theorem run_addSub_free (hd : s.p.d = true) (hbcd : (validBcd s.a && validBcd m) = false) : ∃ a n v z c,
    run (addSub o binary decimal) s = .next { u.tick with
      a := a, p := { u.p with n := n, v := v, z := z, c := c }, draws := u.draws + 1 } := by
  obtain ⟨a, n, v, z, c, hfree⟩ := u.tick.putFree_eq
  refine ⟨a, n, v, z, c, ?_⟩
  rw [run_addSub_decimal e hd, State.putDecimal, State.tick_a, State.a_of_still (readOperand_still e), hbcd,
    if_neg Bool.false_ne_true, hfree, State.tick_p, State.tick_draws]

end

/-- Settles O17: both end with the sum of the binary adder, SBC of the complement. -/
theorem binaryAddAndSubtract : Obligations.BinaryAddAndSubtract := by
  intro o s hreads hd
  obtain ⟨m, u, e, -, -⟩ := readOperand_ok hreads
  refine ⟨m, u, e, ⟨_, rfl, ?_⟩, ⟨_, rfl, ?_⟩⟩
  · rw [← State.putSum_eq u ⟨_, _, _⟩, ← addBinary_eq]
    exact run_addSub_binary e hd
  · rw [← State.putSum_eq u ⟨_, _, _⟩, ← addBinary_complement]
    exact run_addSub_binary e hd

/-- Settles O18: both end with the sum of a decimal adder, which of BCD bytes is the BCD result. -/
theorem decimalAddAndSubtract : Obligations.DecimalAddAndSubtract := by
  intro o s hreads hd ha
  obtain ⟨m, u, e, -, -⟩ := readOperand_ok hreads
  refine ⟨m, u, e, fun hm => ⟨⟨_, rfl, ?_⟩, ⟨_, rfl, ?_⟩⟩⟩ <;> rw [← u.tick_p, ← State.putSum_eq u.tick ⟨_, _, _⟩]
  · rw [← addDecimal_eq ha hm]
    exact run_addSub_bcd e hd ha hm
  · rw [← subDecimal_eq ha hm]
    exact run_addSub_bcd e hd ha hm

/-- Settles O19: neither adder's result is used, and the five values are the free ones. -/
theorem invalidBcdLeavesFiveOpenValues : Obligations.InvalidBcdLeavesFiveOpenValues := by
  intro o s hreads hd
  obtain ⟨m, u, e, -, -⟩ := readOperand_ok hreads
  exact ⟨m, u, e, fun hbcd => ⟨run_addSub_free e hd hbcd, run_addSub_free e hd hbcd⟩⟩

end Sys2Proof.Machine
end

section
/-! Modifications (R187) and the increments and decrements (R252 to R257): what kind M instructions do to memory and to
A, once for every modification. -/

namespace Sys2Proof.Machine

open Sys2Proof.Claims

/-! ## Modifying memory and A -/

/-- An address in RAM reads as the byte that memory holds there. -/
theorem memByte_of_busRead_ram {a : Addr} {v : Byte} {s t : State} (hram : inRam s.cfg a = true)
    (e : busRead a s = .ok v t) : s.memByte a = some v := by
  obtain ⟨b, hb⟩ : ∃ b, s.memByte a = some b := by
    unfold inRam at hram
    split at hram
    · rename_i o ht
      exact ⟨_, by rw [State.memByte, ht]⟩
    · cases hram
  rw [busRead_memByte hb] at e
  cases e
  exact hb

section
variable {k : AccessKind} {o : Mem} {f : Modification}
  (hf : ∀ {s t : State}, t.still = s.still → f t = f s)
include hf

/-- Once the operand is read: an internal cycle, the flags, and the write of the new byte. -/
theorem run_modifyMem_read {s u v : State} {ea : Addr} {m : Byte} (eu : effectiveAddress k o s = .ok ea u)
    (ev : busRead ea u = .ok m v) :
    run (modifyMem k o f) s = finish (busWrite ea (f s m).2 (v.tick.setP (f s m).1)) := by
  have hstill : v.tick.still = s.still := by
    rw [State.tick_still, busRead_ok_still ev, effectiveAddress_still eu]
  simp only [run_apply, modifyMem, applyModification, bind_apply, eu, ev, internal_apply, look_apply, update_apply,
    pure_apply, hf hstill]

theorem modifiesAt_of_exec_modifyMem {i : Instr} (hexec : ∀ s, exec i s = run (modifyMem k o f) s) :
    ModifiesAt k i o f := by
  intro s
  have hmodify : ∀ ea u m v, effectiveAddress k o s = .ok ea u → busRead ea u = .ok m v →
      exec i s = finish (busWrite ea (f s m).2 (v.tick.setP (f s m).1)) :=
    fun ea u m v eu ev => (hexec s).trans (run_modifyMem_read hf eu ev)
  refine ⟨hmodify, fun ea u g v eu ev => ?_, fun g u eu => ?_, fun hreaches => ?_⟩
  · rw [hexec, run_apply, modifyMem, bind_apply, eu]
    simp only [bind_apply, ev, finish_error]
  · rw [hexec, run_apply, modifyMem, bind_apply, eu, finish_error]
  · obtain ⟨ea, u, eu, hu, -, hok⟩ := reaches_iff hreaches
    obtain ⟨hreadable, hwritable⟩ := Bool.and_eq_true_iff.mp hok
    obtain ⟨m, v, ev, hvu, -, -⟩ := busRead_ok ((State.cfg_of_still hu).symm ▸ hreadable)
    have hv : v.tick.still = s.still := v.tick_still.trans (hvu.trans hu)
    have hcfg : (v.tick.setP (f s m).1).cfg = s.cfg := State.cfg_of_still (t := v.tick) hv
    obtain ⟨t, et⟩ := busWrite_ok (f s m).2 (s := v.tick.setP (f s m).1) (hcfg.symm ▸ hwritable)
    refine ⟨ea, u, m, v, t, eu, ev, et, by rw [hmodify ea u m v eu ev, et, finish_ok], fun b hb => ?_,
      fun hram hwf => ?_⟩
    · have hother := busWrite_memByte_other ea b (f s m).2 (v.tick.setP (f s m).1) hb
      rwa [et, endState_ok, memByte_setP, memByte_of_still hv] at hother
    · have hbyte := memByte_of_busRead_ram ((State.cfg_of_still hu).symm ▸ hram) ev
      rw [memByte_of_still hu] at hbyte
      obtain ⟨hframe, hnew⟩ := busWrite_ram_frame (hcfg.symm ▸ hram) ((State.ram_of_still hv).symm ▸ hwf) et
      refine ⟨hbyte, hframe.trans ?_, hnew⟩
      exact congrArg (fun w : State => (w.setP (f s m).1).setRam t.ram) hv

theorem modifiesA_of_exec_modifyOperand {i : Instr} (hexec : ∀ s, exec i s = run (modifyOperand k .acc f) s) :
    ModifiesA i f := by
  intro s
  simp only [hexec, run_apply, modifyOperand, applyModification, bind_apply, internal_apply, look_apply, update_apply,
    pure_apply, finish_ok, State.tick_a, hf s.tick_still]
  rfl

end

/-! ## One up and one down -/

theorem stepBy_eq (g : Byte → Byte) : stepBy g = fun s m => (withNZ s.p (g m), g m) := by
  funext s m
  rw [stepBy, Flags.setNZ_eq_withNZ]

theorem stepBy_of_still (g : Byte → Byte) {s t : State} (h : t.still = s.still) : stepBy g t = stepBy g s := by
  simp only [stepBy_eq, State.p_of_still h]

theorem modifiesMemory_of_exec_stepBy {mk : Mem → Instr} {g : Byte → Byte}
    (hexec : ∀ o s, exec (mk o) s = run (modifyMem .incDec o (stepBy g)) s) :
    ModifiesMemory .incDec mk fun s m => (withNZ s.p (g m), g m) := by
  rw [← stepBy_eq]
  exact fun o => modifiesAt_of_exec_modifyMem (stepBy_of_still g) (hexec o)

theorem modifiesA_of_exec_stepBy {i : Instr} {g : Byte → Byte}
    (hexec : ∀ s, exec i s = run (modifyOperand .incDec .acc (stepBy g)) s) :
    ModifiesA i fun s m => (withNZ s.p (g m), g m) := by
  rw [← stepBy_eq]
  exact modifiesA_of_exec_modifyOperand (stepBy_of_still g) hexec

theorem implied_of_exec_stepRegister {i : Instr} {get : State → Byte} {set : State → Byte → State} {g : Byte → Byte}
    (hexec : ∀ s, exec i s = run (stepRegister get set g) s) (hflags : ∀ t v, (set t v).p = t.p) :
    Implied i fun t => { set t (g (get t)) with p := withNZ t.p (g (get t)) } := by
  intro s
  simp only [hexec, run_apply, stepRegister, bind_apply, internal_apply, update_apply, finish_ok,
    State.setNZ_eq_withNZ, hflags]

theorem ofNat_toNat_add_one (v : Byte) : BitVec.ofNat 8 (v.toNat + 1) = v + 1 := by bv_omega

theorem ofNat_toNat_add_255 (v : Byte) : BitVec.ofNat 8 (v.toNat + 255) = v - 1 := by bv_omega

/-- Settles O23: INC and DEC are the modification by one step, the register forms one operation. -/
theorem incrementsAndDecrementsWrap : Obligations.IncrementsAndDecrementsWrap := by
  simp only [Obligations.IncrementsAndDecrementsWrap, ofNat_toNat_add_one, ofNat_toNat_add_255]
  exact ⟨modifiesMemory_of_exec_stepBy fun _ _ => rfl, modifiesA_of_exec_stepBy fun _ => rfl,
    modifiesMemory_of_exec_stepBy fun _ _ => rfl, modifiesA_of_exec_stepBy fun _ => rfl,
    implied_of_exec_stepRegister (set := State.setX) (g := fun v => v + 1) (fun _ => rfl) fun _ _ => rfl,
    implied_of_exec_stepRegister (set := State.setY) (g := fun v => v + 1) (fun _ => rfl) fun _ _ => rfl,
    implied_of_exec_stepRegister (set := State.setX) (g := fun v => v - 1) (fun _ => rfl) fun _ _ => rfl,
    implied_of_exec_stepRegister (set := State.setY) (g := fun v => v - 1) (fun _ => rfl) fun _ _ => rfl⟩

end Sys2Proof.Machine
end

section
/-! Shifts, rotates and memory bit operations (R280 to R287): each modification of the model in the arithmetic of its
rule, and with it the instructions that make it. -/

namespace Sys2Proof.Machine

open Sys2Proof.Claims

/-! ## Shifts and rotates (R280 to R283) -/

theorem bit_zero (v : Byte) : bit v 0 = decide (v.toNat % 2 = 1) := by
  rw [bit, BitVec.getLsbD, Nat.testBit_zero]

theorem ofNat_toNat_mul_two (v : Byte) : BitVec.ofNat 8 (v.toNat * 2) = v <<< 1 := by
  apply BitVec.eq_of_toNat_eq
  rw [BitVec.toNat_shiftLeft, Nat.shiftLeft_eq, BitVec.toNat_ofNat]

theorem ofNat_toNat_div_two (v : Byte) : BitVec.ofNat 8 (v.toNat / 2) = v >>> 1 := by
  apply BitVec.eq_of_toNat_eq
  rw [BitVec.toNat_ushiftRight, Nat.shiftRight_eq_div_pow, BitVec.toNat_ofNat, Nat.mod_eq_of_lt (by omega)]

theorem carryIn_eq_ofNat (c : Bool) : carryIn c = BitVec.ofNat 8 (num c) := by cases c <;> rfl

/-- The old carry enters the bit that doubling leaves empty. -/
theorem ofNat_toNat_mul_two_add_num (v : Byte) (c : Bool) :
    BitVec.ofNat 8 (v.toNat * 2 + num c) = v <<< 1 ||| carryIn c := by
  have hempty : v <<< 1 &&& carryIn c = 0#8 := by
    cases c with
    | false => exact BitVec.and_zero
    | true => exact (BitVec.and_twoPow _ 0).trans (by simp)
  rw [BitVec.ofNat_add, ofNat_toNat_mul_two, ← carryIn_eq_ofNat, BitVec.add_eq_or_of_and_eq_zero _ _ hempty]

/-- The old carry enters the bit that halving leaves empty. -/
theorem ofNat_toNat_div_two_add_num (v : Byte) (c : Bool) :
    BitVec.ofNat 8 (v.toNat / 2 + num c * 128) = v >>> 1 ||| carryIn c <<< 7 := by
  have hempty : v >>> 1 &&& carryIn c <<< 7 = 0#8 := by
    cases c with
    | false => exact BitVec.and_zero
    | true => exact (BitVec.and_twoPow _ 7).trans (by simp)
  have hcarry : BitVec.ofNat 8 (num c * 128) = carryIn c <<< 7 := by cases c <;> rfl
  rw [BitVec.ofNat_add, ofNat_toNat_div_two, hcarry, BitVec.add_eq_or_of_and_eq_zero _ _ hempty]

theorem shifted_eq (p : Flags) (out : Bool) (r : Byte) : shifted p out r = ({ withNZ p r with c := out }, r) := by
  rw [shifted, Flags.setNZ_eq_withNZ]
  rfl

/-- A kind M instruction that shifts by the bit `out` and the result `r`, in memory and on A. -/
theorem shifts_of_exec_shifted {mk : RmwOp → Instr} {out : Byte → Bool} {r : Byte → Bool → Byte}
    (hexec : ∀ o s, exec (mk o) s = run (modifyOperand .shift o fun s v => shifted s.p (out v) (r v s.p.c)) s) :
    ModifiesMemory .shift (fun o => mk (.mem o)) (fun s m => ({ withNZ s.p (r m s.p.c) with c := out m }, r m s.p.c)) ∧
    ModifiesA (mk .acc) fun s m => ({ withNZ s.p (r m s.p.c) with c := out m }, r m s.p.c) := by
  simp only [shifted_eq] at hexec
  exact ⟨fun o => modifiesAt_of_exec_modifyMem (fun h => by simp only [State.p_of_still h]) (hexec (.mem o)),
    modifiesA_of_exec_modifyOperand (fun h => by simp only [State.p_of_still h]) (hexec .acc)⟩

/-- Settles O24: the four instructions are one modification with different results. -/
theorem shiftsMoveOneBit : Obligations.ShiftsMoveOneBit := by
  simp only [Obligations.ShiftsMoveOneBit, ofNat_toNat_mul_two_add_num, ofNat_toNat_div_two_add_num,
    ofNat_toNat_mul_two, ofNat_toNat_div_two, ← bit_seven, ← bit_zero]
  exact ⟨shifts_of_exec_shifted (r := fun v _ => v <<< 1) fun _ _ => rfl,
    shifts_of_exec_shifted (r := fun v _ => v >>> 1) fun _ _ => rfl,
    shifts_of_exec_shifted (r := fun v c => v <<< 1 ||| carryIn c) fun _ _ => rfl,
    shifts_of_exec_shifted (r := fun v c => v >>> 1 ||| carryIn c <<< 7) fun _ _ => rfl⟩

/-! ## TSB and TRB (R284, R285) -/

theorem tsbOp_of_still {s t : State} (h : t.still = s.still) : tsbOp t = tsbOp s := by
  funext v
  rw [tsbOp, tsbOp, State.p_of_still h, State.a_of_still h]

theorem trbOp_of_still {s t : State} (h : t.still = s.still) : trbOp t = trbOp s := by
  funext v
  rw [trbOp, trbOp, State.p_of_still h, State.a_of_still h]

/-- Settles O25: TSB and TRB are modifications that look at A and the flags only. -/
theorem tsbTrbSetAndResetBits : Obligations.TsbTrbSetAndResetBits :=
  ⟨fun _ => modifiesAt_of_exec_modifyMem tsbOp_of_still fun _ => rfl,
    fun _ => modifiesAt_of_exec_modifyMem trbOp_of_still fun _ => rfl⟩

/-! ## RMB and SMB (R286, R287) -/

/-- A byte is its bits under a mask and its other bits, so clearing the former subtracts them. -/
theorem and_not_eq_sub (v b : Byte) : v &&& ~~~b = v - (v &&& b) := by
  have hdisjoint : (v &&& ~~~b) &&& (v &&& b) = 0#8 := by
    ext i
    cases hb : b[i] <;> simp [hb]
  have hunion : (v &&& ~~~b) ||| (v &&& b) = v := by
    ext i
    cases hb : b[i] <;> simp [hb]
  rw [BitVec.eq_sub_iff_add_eq, BitVec.add_eq_or_of_and_eq_zero _ _ hdisjoint, hunion]

/-- Setting the bits of a mask adds those that the byte lacks. -/
theorem or_eq_add (v b : Byte) : v ||| b = v + (b - (v &&& b)) := by
  have hdisjoint : v &&& (b &&& ~~~v) = 0#8 := by
    ext i
    cases hv : v[i] <;> simp [hv]
  have hunion : v ||| (b &&& ~~~v) = v ||| b := by
    ext i
    cases hv : v[i] <;> simp [hv]
  rw [BitVec.and_comm v b, ← and_not_eq_sub, BitVec.add_eq_or_of_and_eq_zero _ _ hdisjoint, hunion]

theorem one_shiftLeft_eq_ofNat (n : Nat) : 1#8 <<< n = BitVec.ofNat 8 (2 ^ n) := by
  apply BitVec.eq_of_toNat_eq
  simp [Nat.shiftLeft_eq]

/-- Bit `n` of a byte in its place, in arithmetic. -/
theorem and_one_shiftLeft (v : Byte) (n : Nat) : v &&& 1#8 <<< n = BitVec.ofNat 8 (v.toNat / 2 ^ n % 2 * 2 ^ n) := by
  rw [← BitVec.twoPow_eq, BitVec.and_twoPow, ← Nat.toNat_testBit, BitVec.getLsbD]
  cases v.toNat.testBit n with
  | false => simp
  | true => simp [BitVec.twoPow_eq, one_shiftLeft_eq_ofNat]

theorem resetBit_eq (n : Nat) :
    resetBit n = fun s m => (s.p, BitVec.ofNat 8 (m.toNat - m.toNat / 2 ^ n % 2 * 2 ^ n)) := by
  funext s m
  have hle : m.toNat / 2 ^ n % 2 * 2 ^ n ≤ m.toNat :=
    Nat.le_trans (Nat.mul_le_mul_right _ (Nat.mod_le _ _)) (Nat.div_mul_le_self _ _)
  rw [resetBit, and_not_eq_sub, and_one_shiftLeft,
    ← BitVec.ofNat_sub_ofNat_of_le _ _ (Nat.lt_of_le_of_lt hle m.isLt) hle, BitVec.ofNat_toNat, BitVec.setWidth_eq]

theorem setBit_eq (n : Nat) :
    setBit n = fun s m => (s.p, BitVec.ofNat 8 (m.toNat + (1 - m.toNat / 2 ^ n % 2) * 2 ^ n)) := by
  funext s m
  have hmask : 1#8 <<< n - (m &&& 1#8 <<< n) = BitVec.ofNat 8 ((1 - m.toNat / 2 ^ n % 2) * 2 ^ n) := by
    rw [and_one_shiftLeft, one_shiftLeft_eq_ofNat]
    rcases Nat.mod_two_eq_zero_or_one (m.toNat / 2 ^ n) with h | h <;> simp [h]
  rw [setBit, or_eq_add, hmask, BitVec.ofNat_add, BitVec.ofNat_toNat, BitVec.setWidth_eq]

theorem modifiesAt_of_exec_resetBit {z : Byte} {i : Instr} {n : Nat}
    (hexec : ∀ s, exec i s = run (modifyMem .shift (.zp z) (resetBit n)) s) :
    ModifiesAt .shift i (.zp z) fun s m => (s.p, BitVec.ofNat 8 (m.toNat - m.toNat / 2 ^ n % 2 * 2 ^ n)) := by
  simp only [resetBit_eq] at hexec
  exact modifiesAt_of_exec_modifyMem (fun h => by simp only [State.p_of_still h]) hexec

theorem modifiesAt_of_exec_setBit {z : Byte} {i : Instr} {n : Nat}
    (hexec : ∀ s, exec i s = run (modifyMem .shift (.zp z) (setBit n)) s) :
    ModifiesAt .shift i (.zp z) fun s m => (s.p, BitVec.ofNat 8 (m.toNat + (1 - m.toNat / 2 ^ n % 2) * 2 ^ n)) := by
  simp only [setBit_eq] at hexec
  exact modifiesAt_of_exec_modifyMem (fun h => by simp only [State.p_of_still h]) hexec

/-- Settles O26: each of the sixteen is the modification of its bit, under its opcode. -/
theorem rmbAndSmbChangeTheirBit : Obligations.RmbAndSmbChangeTheirBit :=
  ⟨⟨fun _ => ⟨modifiesAt_of_exec_resetBit fun _ => rfl, rfl⟩, fun _ => ⟨modifiesAt_of_exec_resetBit fun _ => rfl, rfl⟩,
    fun _ => ⟨modifiesAt_of_exec_resetBit fun _ => rfl, rfl⟩, fun _ => ⟨modifiesAt_of_exec_resetBit fun _ => rfl, rfl⟩,
    fun _ => ⟨modifiesAt_of_exec_resetBit fun _ => rfl, rfl⟩, fun _ => ⟨modifiesAt_of_exec_resetBit fun _ => rfl, rfl⟩,
    fun _ => ⟨modifiesAt_of_exec_resetBit fun _ => rfl, rfl⟩, fun _ => ⟨modifiesAt_of_exec_resetBit fun _ => rfl, rfl⟩⟩,
   ⟨fun _ => ⟨modifiesAt_of_exec_setBit fun _ => rfl, rfl⟩, fun _ => ⟨modifiesAt_of_exec_setBit fun _ => rfl, rfl⟩,
    fun _ => ⟨modifiesAt_of_exec_setBit fun _ => rfl, rfl⟩, fun _ => ⟨modifiesAt_of_exec_setBit fun _ => rfl, rfl⟩,
    fun _ => ⟨modifiesAt_of_exec_setBit fun _ => rfl, rfl⟩, fun _ => ⟨modifiesAt_of_exec_setBit fun _ => rfl, rfl⟩,
    fun _ => ⟨modifiesAt_of_exec_setBit fun _ => rfl, rfl⟩, fun _ => ⟨modifiesAt_of_exec_setBit fun _ => rfl, rfl⟩⟩⟩

end Sys2Proof.Machine
end

section
/-! Branches and jumps (R320 to R332): what each does after its operand fetches, in the arithmetic of its rule. -/

namespace Sys2Proof.Machine

open Sys2Proof.Claims

/-! ## Relative branches (R320 to R329) -/

theorem operandByte_of_fetch {s u : State} {b : Byte} (d : Byte) (e : fetch s = .ok b u) :
    operandByte d s = .ok d u := by
  simp only [operandByte, bind_apply, e, pure_apply]

/-- A taken branch spends its second cycle when the target is on another page than the next instruction. -/
theorem branchEnd_taken (d : Byte) (u : State) : branchEnd true d u =
    (u.ticks (if crossed u.pc (branchTarget u.pc d) then 2 else 1)).setPc (branchTarget u.pc d) := by
  rw [branchEnd, ← branchTarget_eq, if_pos rfl]
  by_cases hpage : (branchTarget u.pc d).toNat / 256 = u.pc.toNat / 256 <;> simp [crossed_eq, hpage, State.setPc]

/-- A branch whose displacement can be fetched ends as the rule says. -/
theorem branch_of_fetch_ok {s u : State} {b : Byte} (c : Bool) (d : Byte) (e : fetch s = .ok b u) :
    branch c d s = .ok () (branchEnd c d u) := by
  simp only [branch, bind_apply, operandByte_of_fetch d e]
  cases c with
  | false => rfl
  | true =>
    rw [branchEnd_taken]
    cases hcrossed : crossed u.pc (branchTarget u.pc d) <;> simp [hcrossed, State.ticks]

theorem branch_of_fetch_error {s u : State} {f : Fault} (c : Bool) (d : Byte) (e : fetch s = .error f u) :
    branch c d s = .error f u := by
  simp only [branch, operandByte, bind_apply, e]

theorem branchesOn_of_exec_branchOn {mk : Byte → Instr} {cond : State → Bool}
    (hexec : ∀ d s, exec (mk d) s = run (branchOn cond d) s) : BranchesOn mk cond := by
  intro d s
  have hrun : exec (mk d) s = finish (branch (cond s) d s) := hexec d s
  refine ⟨fun hreadable => ?_, fun f u e => ?_⟩
  · obtain ⟨b, u, e, -, -⟩ := fetch_ok hreadable
    exact ⟨b, u, e, by rw [hrun, branch_of_fetch_ok _ _ e, finish_ok]⟩
  · rw [hrun, branch_of_fetch_error _ _ e, finish_error]

/-- Settles O27: the nine are one operation with different conditions. -/
theorem branchesFollowTheirFlag : Obligations.BranchesFollowTheirFlag := by
  unfold Obligations.BranchesFollowTheirFlag
  and_intros <;> exact branchesOn_of_exec_branchOn fun _ _ => rfl

/-! ## Branches on a bit (R330, R331) -/

theorem bit_beq_eq (m : Byte) (n : Nat) (b : Bool) : (bit m n == b) = decide (m.toNat / 2 ^ n % 2 = num b) := by
  rw [bit, BitVec.getLsbD, Nat.testBit_eq_decide_div_mod_eq]
  rcases Nat.mod_two_eq_zero_or_one (m.toNat / 2 ^ n) with h | h <;> cases b <;> simp [h, num]

theorem branchesOnBit_of_exec_branchOnBit {mk : Byte → Byte → Instr} {n : Nat} {b : Bool}
    (hexec : ∀ z d s, exec (mk z d) s = run (branchOnBit n b z d) s) : BranchesOnBit mk n b := by
  intro z d s hoperand hzero hdisplacement
  obtain ⟨x, u, eu, hu, hupc⟩ := fetch_ok hoperand
  obtain ⟨m, v, ev, hv, hvpc, -⟩ := busRead_ok (a := zeroPage z) ((State.cfg_of_still hu).symm ▸ hzero)
  have htick : v.tick.still = s.still := v.tick_still.trans (hv.trans hu)
  obtain ⟨y, w, ew, -, -⟩ := fetch_ok (s := v.tick) (by
    rwa [State.cfg_of_still htick, State.tick_pc, hvpc, hupc])
  refine ⟨x, u, m, v, y, w, eu, ev, ew, ?_⟩
  simp only [hexec, run_apply, branchOnBit, bind_apply, operandByte_of_fetch z eu, ev, internal_apply,
    branch_of_fetch_ok _ d ew, bit_beq_eq, finish_ok]

/-- Settles O28: the sixteen are one operation, at each bit and for each of its values. -/
theorem bitBranchesTestTheirBit : Obligations.BitBranchesTestTheirBit := by
  unfold Obligations.BitBranchesTestTheirBit
  and_intros <;> exact branchesOnBit_of_exec_branchOnBit fun _ _ _ => rfl

/-! ## JMP (R332, R182) -/

theorem ofNat_word_eq_join (h l : Byte) : BitVec.ofNat 16 (h.toNat * 256 + l.toNat) = join h l := by
  rw [← join_toNat, BitVec.ofNat_toNat, BitVec.setWidth_eq]

/-- A jump through a readable pointer: its two bytes are read, low byte first, and PC is their word. -/
theorem jumpThrough_ok {p : Addr} {s : State} (hl : readable s.cfg p = true) (hh : readable s.cfg (p + 1) = true) :
    ∃ l v h w, busRead p s = .ok l v ∧ busRead (p + 1) v = .ok h w ∧
      jumpThrough p s = .ok () (w.setPc (join h l)) := by
  obtain ⟨l, v, ev, hv, -, -⟩ := busRead_ok hl
  obtain ⟨h, w, ew, -, -, -⟩ := busRead_ok (s := v) ((State.cfg_of_still hv).symm ▸ hh)
  exact ⟨l, v, h, w, ev, ew, by simp only [jumpThrough, bind_apply, ev, ew, update_apply]⟩

/-- A JMP that, its operand `a` fetched, spends a cycle and jumps through the pointer at `p`. -/
theorem exec_jmp_of_jumpThrough {o : JumpOp} {a p : Addr} {s : State} (hfirst : readable s.cfg s.pc = true)
    (hsecond : readable s.cfg (s.pc + 1) = true) (hl : readable s.cfg p = true) (hh : readable s.cfg (p + 1) = true)
    (hjump : ∀ u, operandAddr a s = .ok a u → u.x = s.x → jumpTo o s = jumpThrough p u.tick) :
    ∃ u l v h w, operandAddr a s = .ok a u ∧ busRead p u.tick = .ok l v ∧ busRead (p + 1) v = .ok h w ∧
      exec (.jmp o) s = .next { w with pc := BitVec.ofNat 16 (h.toNat * 256 + l.toNat) } := by
  obtain ⟨u, e, hu, -⟩ := operandAddr_ok a hfirst hsecond
  have hcfg : u.tick.cfg = s.cfg := u.tick_cfg.trans (State.cfg_of_still hu)
  obtain ⟨l, v, h, w, ev, ew, ejump⟩ := jumpThrough_ok (hcfg.symm ▸ hl) (hcfg.symm ▸ hh)
  refine ⟨u, l, v, h, w, e, ev, ew, ?_⟩
  show run (jumpTo o) s = _
  rw [run_apply, hjump u e (State.x_of_still hu), ejump, ofNat_word_eq_join]
  rfl

/-- Settles O29: the indirect forms jump through a pointer, to whose address the indexed form adds X. -/
theorem jmpGoesToItsTarget : Obligations.JmpGoesToItsTarget := by
  intro s hfirst hsecond
  refine ⟨fun t => ?_, fun p hl hh => ?_, fun b p hp hl hh => ?_⟩
  · obtain ⟨u, e, -, -⟩ := operandAddr_ok t hfirst hsecond
    refine ⟨u, e, operandAddr_cycles e, ?_⟩
    show run (jumpTo (.abs t)) s = _
    simp only [run_apply, jumpTo, bind_apply, e, update_apply, finish_ok]
    rfl
  · refine exec_jmp_of_jumpThrough hfirst hsecond hl hh fun u e _ => ?_
    simp only [jumpTo, bind_apply, e, internal_apply]
  · have hindexed : b + s.x.setWidth 16 = p := BitVec.eq_of_toNat_eq ((add_index_toNat b s.x).trans hp.symm)
    refine exec_jmp_of_jumpThrough hfirst hsecond hl hh fun u e hx => ?_
    simp only [jumpTo, bind_apply, e, internal_apply, look_apply, State.tick_x, hx, hindexed]

end Sys2Proof.Machine
end

section
/-! Calls, returns and BRK (R333 to R336): the pushes that JSR, BRK and interrupt entry make, the pulls that RTS and RTI
make, and what is left of memory and the stack. -/

namespace Sys2Proof.Machine

open Sys2Proof.Claims

theorem State.still_setSp (s : State) (v : Byte) : (s.setSp v).still = s.still.setSp v := rfl

theorem State.still_setP (s : State) (p : Flags) : (s.setP p).still = s.still.setP p := rfl

theorem State.setSp_setSp (s : State) (v w : Byte) : (s.setSp v).setSp w = s.setSp w := rfl

theorem State.setP_setSp (s : State) (p : Flags) (v : Byte) : (s.setP p).setSp v = (s.setSp v).setP p := rfl

/-- One more tick on top of those that have passed. -/
theorem State.cycles_tick {s t : State} {n : Nat} (hcfg : t.cfg = s.cfg) (hcycles : t.cycles = (s.ticks n).cycles) :
    t.tick.cycles = (s.ticks (n + 1)).cycles := by
  rw [← s.ticks_ticks]
  exact State.ticks_cycles_congr 1 (hcfg.trans (State.cfg_of_still (s.ticks_still n)).symm) hcycles

/-! ## A run of pushes (R360) -/

/-- The addresses of at most 256 pushes differ. -/
theorem stackAddr_sub_inj {sp : Byte} {j k : Nat} (hj : j < 256) (hk : k < 256)
    (h : stackAddr (sp - BitVec.ofNat 8 j) = stackAddr (sp - BitVec.ofNat 8 k)) : j = k := by
  have hsp := stackAddr_inj h
  bv_omega

/-- In the first `n` cycles from `s` on, the bytes `bs` were pushed into RAM, the first one first; nothing else but
clock, devices and PC has changed. -/
structure Pushed (bs : List Byte) (n : Nat) (s t : State) : Prop where
  cycles_spent : t.cycles = (s.ticks n).cycles
  canonical : Memory.wf t.ram.cells = true
  stored : ∀ k b, bs[k]? = some b → t.memByte (stackAddr (s.sp - BitVec.ofNat 8 k)) = some b
  kept : ∀ a, (∀ k, k < bs.length → a ≠ stackAddr (s.sp - BitVec.ofNat 8 k)) → t.memByte a = s.memByte a
  rest_kept : t.still = ((s.setSp (s.sp - BitVec.ofNat 8 bs.length)).setRam t.ram).still

namespace Pushed

variable {s t : State} {bs : List Byte} {n : Nat}

/-- Before the first push. -/
theorem nil (hstill : t.still = s.still) (hcycles : t.cycles = (s.ticks n).cycles)
    (hwf : Memory.wf s.ram.cells = true) : Pushed [] n s t where
  cycles_spent := hcycles
  canonical := (State.ram_of_still hstill).symm ▸ hwf
  stored _ _ h := by simp at h
  kept a _ := memByte_of_still hstill a
  rest_kept := by
    rw [hstill, State.ram_of_still hstill]
    simp [State.setSp, State.setRam]

theorem cfg_kept (h : Pushed bs n s t) : t.cfg = s.cfg := (State.cfg_of_still h.rest_kept).trans rfl

theorem p_kept (h : Pushed bs n s t) : t.p = s.p := (State.p_of_still h.rest_kept).trans rfl

theorem sp_eq (h : Pushed bs n s t) : t.sp = s.sp - BitVec.ofNat 8 bs.length :=
  (State.sp_of_still h.rest_kept).trans rfl

/-- One push more, to an address that none of the bytes before is at. -/
theorem push (h : Pushed bs n s t) (hlen : bs.length < 256)
    (hram : inRam s.cfg (stackAddr (s.sp - BitVec.ofNat 8 bs.length)) = true) (v : Byte) :
    ∃ u, Machine.push v t = .ok () u ∧ Pushed (bs ++ [v]) (n + 1) s u := by
  rw [← h.cfg_kept, ← h.sp_eq] at hram
  obtain ⟨u, e, -, -, -, -, hcycles, hwf, hsame, hother, hrest⟩ := push_spec v hram h.canonical
  rw [h.sp_eq] at hsame hother hrest
  have hlength : (bs ++ [v]).length = bs.length + 1 := List.length_append
  refine ⟨u, e, ?_, hwf, fun k b hb => ?_, fun a ha => ?_, ?_⟩
  · rw [hcycles, ← t.tick_cycles]
    exact State.cycles_tick h.cfg_kept h.cycles_spent
  · obtain hk | rfl : k < bs.length ∨ k = bs.length := by
      have := (List.getElem?_eq_some_iff.mp hb).1
      omega
    · rw [List.getElem?_append_left hk] at hb
      rw [hother _ fun ha => Nat.ne_of_lt hk (stackAddr_sub_inj (Nat.lt_trans hk hlen) hlen ha), h.stored k b hb]
    · rw [List.getElem?_concat_length] at hb
      rwa [← hb]
  · rw [hother a (ha _ (by omega)), h.kept a fun k hk => ha k (by omega)]
  · have hsp : s.sp - BitVec.ofNat 8 bs.length - 1 = s.sp - BitVec.ofNat 8 (bs ++ [v]).length := by
      rw [hlength]
      bv_omega
    rw [hrest, ← hsp]
    exact congrArg (fun w : State => (w.setSp (s.sp - BitVec.ofNat 8 bs.length - 1)).setRam u.ram) h.rest_kept

end Pushed

section
variable {s t : State} {n : Nat}

/-! ## When pushes and pulls succeed -/

theorem pushesToRam_iff : pushesToRam n s = true ↔
    ∀ k, k < n → inRam s.cfg (stackAddr (s.sp - BitVec.ofNat 8 k)) = true := by
  simp only [pushesToRam, List.all_eq_true, List.mem_range]

theorem pushable_iff : pushable n s = true ↔
    ∀ k, k < n → writable s.cfg (stackAddr (s.sp - BitVec.ofNat 8 k)) = true := by
  simp only [pushable, List.all_eq_true, List.mem_range]

theorem pullable_iff : pullable n s = true ↔
    ∀ k, k < n → readable s.cfg (stackAddr (s.sp + 1 + BitVec.ofNat 8 k)) = true := by
  simp only [pullable, List.all_eq_true, List.mem_range]

theorem pushable_of_still (h : t.still = s.still) : pushable n t = pushable n s := by
  simp only [pushable, State.cfg_of_still h, State.sp_of_still h]

theorem pullable_of_still (h : t.still = s.still) : pullable n t = pullable n s := by
  simp only [pullable, State.cfg_of_still h, State.sp_of_still h]

/-- The first of several possible pushes succeeds and leaves the others possible. -/
theorem push_of_pushable (h : pushable (n + 1) s = true) (v : Byte) :
    ∃ t, push v s = .ok () t ∧ pushable n t = true := by
  rw [pushable_iff] at h
  have hfirst : writable s.cfg (stackAddr s.sp) = true := by simpa using h 0 n.succ_pos
  obtain ⟨u, eu, e⟩ := push_ok v hfirst
  have hcfg := busWrite_cfg (stackAddr s.sp) v s
  rw [eu, endState_ok] at hcfg
  refine ⟨_, e, pushable_iff.mpr fun k hk => ?_⟩
  rw [State.setSp_cfg, State.setSp_sp, hcfg, ← sp_sub_succ]
  exact h (k + 1) (Nat.succ_lt_succ hk)

/-- The first of several possible pulls succeeds and leaves the others possible. -/
theorem pull_of_pullable (h : pullable (n + 1) s = true) : ∃ v t, pull s = .ok v t ∧ pullable n t = true := by
  rw [pullable_iff] at h
  have hfirst : readable s.cfg (stackAddr (s.sp + 1)) = true := by simpa using h 0 n.succ_pos
  obtain ⟨v, t, e, ht, -⟩ := pull_ok hfirst
  refine ⟨v, t, e, (pullable_of_still ht).trans (pullable_iff.mpr fun k hk => ?_)⟩
  have hsp : s.sp + 1 + 1 + BitVec.ofNat 8 k = s.sp + 1 + BitVec.ofNat 8 (k + 1) := by bv_omega
  rw [State.setSp_cfg, State.setSp_sp, hsp]
  exact h (k + 1) (Nat.succ_lt_succ hk)

/-! ## JSR (R333) -/

theorem exec_jsr_of_pushes {target : Addr} {u v w : State} (hu : u.pc = s.pc + 2)
    (eu : operandAddr target s = .ok target u) (ev : push (hi (s.pc + 1)) u.tick = .ok () v)
    (ew : push (lo (s.pc + 1)) v = .ok () w) : exec (.jsr target) s = .next (w.setPc target) := by
  have hpc : u.pc - 1 = s.pc + 1 := by bv_omega
  show run (jumpSubroutine target) s = _
  simp only [run_apply, jumpSubroutine, bind_apply, eu, internal_apply, look_apply, State.tick_pc, hpc, ev, ew,
    update_apply, finish_ok]

theorem jsr_of_pushable {target : Addr} (hfetch : fetchable 2 s = true) (hpush : pushable 2 s = true) :
    ∃ u v w, operandAddr target s = .ok target u ∧ push (hi (s.pc + 1)) u.tick = .ok () v ∧
      push (lo (s.pc + 1)) v = .ok () w ∧ exec (.jsr target) s = .next (w.setPc target) := by
  obtain ⟨hfirst, hsecond⟩ := fetchable_two hfetch
  obtain ⟨u, eu, hu, hpc⟩ := operandAddr_ok target hfirst hsecond
  rw [← pushable_of_still (u.tick_still.trans hu)] at hpush
  obtain ⟨v, ev, hv⟩ := push_of_pushable hpush (hi (s.pc + 1))
  obtain ⟨w, ew, -⟩ := push_of_pushable hv (lo (s.pc + 1))
  exact ⟨u, v, w, eu, ev, ew, exec_jsr_of_pushes hpc eu ev ew⟩

theorem jsr_pushed {target : Addr} (hfetch : fetchable 2 s = true) (hram : pushesToRam 2 s = true)
    (hwf : Memory.wf s.ram.cells = true) :
    ∃ t, exec (.jsr target) s = .next (t.setPc target) ∧ Pushed [hi (s.pc + 1), lo (s.pc + 1)] 5 s t := by
  rw [pushesToRam_iff] at hram
  obtain ⟨hfirst, hsecond⟩ := fetchable_two hfetch
  obtain ⟨u, eu, hu, hpc⟩ := operandAddr_ok target hfirst hsecond
  have hcycles := State.cycles_tick (State.cfg_of_still hu) (operandAddr_cycles eu)
  have hnil : Pushed [] 3 s u.tick := .nil (u.tick_still.trans hu) hcycles hwf
  obtain ⟨v, ev, hv⟩ := hnil.push (by simp) (hram 0 (by omega)) (hi (s.pc + 1))
  obtain ⟨w, ew, hw⟩ := hv.push (by simp) (hram 1 (by omega)) (lo (s.pc + 1))
  exact ⟨w, exec_jsr_of_pushes hpc eu ev ew, hw⟩

/-! ## RTS (R334) -/

theorem exec_rts_of_pulls {u v : State} {l h : Byte} (el : pull (s.ticks 2) = .ok l u) (eh : pull u = .ok h v) :
    exec .rts s = .next (v.tick.setPc (BitVec.ofNat 16 (h.toNat * 256 + l.toNat + 1))) := by
  have hpc : BitVec.ofNat 16 (h.toNat * 256 + l.toNat + 1) = join h l + 1 := by
    rw [BitVec.ofNat_add, ofNat_word_eq_join]
    rfl
  show run returnSubroutine s = _
  simp only [State.ticks] at el
  simp only [run_apply, returnSubroutine, bind_apply, internal_apply, el, eh, update_apply, finish_ok, hpc]

theorem rts_of_pullable (hpull : pullable 2 s = true) : ∃ l u h v, pull (s.ticks 2) = .ok l u ∧ pull u = .ok h v ∧
    exec .rts s = .next (v.tick.setPc (BitVec.ofNat 16 (h.toNat * 256 + l.toNat + 1))) := by
  rw [← pullable_of_still (s.ticks_still 2)] at hpull
  obtain ⟨l, u, el, hu⟩ := pull_of_pullable hpull
  obtain ⟨h, v, eh, -⟩ := pull_of_pullable hu
  exact ⟨l, u, h, v, el, eh, exec_rts_of_pulls el eh⟩

theorem rts_memByte {l h : Byte} (hl : s.memByte (stackAddr (s.sp + 1)) = some l)
    (hh : s.memByte (stackAddr (s.sp + 2)) = some h) :
    ∃ t, exec .rts s = .next t ∧ t.pc = BitVec.ofNat 16 (h.toNat * 256 + l.toNat + 1) ∧
      t.cycles = (s.ticks 5).cycles ∧ t.still = (s.setSp (s.sp + 2)).still := by
  refine ⟨_, exec_rts_of_pulls (pull_memByte ?_) (pull_memByte ?_), rfl, ?_, ?_⟩
  · simpa [State.ticks] using hl
  · simpa [State.ticks, BitVec.add_assoc] using hh
  · simp [State.ticks]
  · simp [State.ticks, State.still_setSp, State.setSp_setSp, BitVec.add_assoc]

/-! ## RTI (R335) -/

theorem exec_rti_of_pulls {p l h : Byte} {u v w : State} (ep : pull (s.ticks 2) = .ok p u)
    (el : pull (u.setP (s.p.unpack p)) = .ok l v) (eh : pull v = .ok h w) :
    exec .rti s = .next (w.setPc (join h l)) := by
  have hp : u.p = s.p := by
    rw [State.p_of_still (pull_still ep).1, State.setSp_p, State.p_of_still (s.ticks_still 2)]
  simp only [State.ticks] at ep
  show run returnFromInterrupt s = _
  simp only [run_apply, returnFromInterrupt, bind_apply, internal_apply, ep, update_apply, hp, el, eh, finish_ok]

theorem rti_of_pullable (hpull : pullable 3 s = true) : ∃ p u l v h w, pull (s.ticks 2) = .ok p u ∧
    pull (u.setP (s.p.unpack p)) = .ok l v ∧ pull v = .ok h w ∧ exec .rti s = .next (w.setPc (join h l)) := by
  rw [← pullable_of_still (s.ticks_still 2)] at hpull
  obtain ⟨p, u, ep, hu⟩ := pull_of_pullable hpull
  obtain ⟨l, v, el, hv⟩ := pull_of_pullable (s := u.setP (s.p.unpack p)) hu
  obtain ⟨h, w, eh, -⟩ := pull_of_pullable hv
  exact ⟨p, u, l, v, h, w, ep, el, eh, exec_rti_of_pulls ep el eh⟩

theorem rti_memByte {p l h : Byte} (hp : s.memByte (stackAddr (s.sp + 1)) = some p)
    (hl : s.memByte (stackAddr (s.sp + 2)) = some l) (hh : s.memByte (stackAddr (s.sp + 3)) = some h) :
    ∃ t, exec .rti s = .next t ∧ t.pc.toNat = h.toNat * 256 + l.toNat ∧ t.cycles = (s.ticks 5).cycles ∧
      t.still = ((s.setSp (s.sp + 3)).setP (s.p.unpack p)).still := by
  refine ⟨_, exec_rti_of_pulls (p := p) (pull_memByte ?_) (pull_memByte ?_) (pull_memByte ?_), join_toNat h l, ?_, ?_⟩
  · simpa [State.ticks] using hp
  · simpa [State.ticks, BitVec.add_assoc] using hl
  · simpa [State.ticks, BitVec.add_assoc] using hh
  · simp [State.ticks]
  · simp [State.ticks, State.still_setSp, State.still_setP, State.setSp_setSp, State.setP_setSp, BitVec.add_assoc]

/-! ## Taking an exception, and BRK (R336, R420) -/

theorem loadVector_memByte {vec : Addr} {l h : Byte} (hl : s.memByte vec = some l) (hh : s.memByte (vec + 1) = some h) :
    loadVector vec s = .ok () (s.tick.tick.setPc (join h l)) := by
  have hh' : s.tick.memByte (vec + 1) = some h := (memByte_tick s _).trans hh
  simp only [loadVector, bind_apply, busRead_memByte hl, busRead_memByte hh', update_apply]

/-- Addresses above page one are not pushed to. -/
theorem ne_stackAddr {a : Addr} (ha : 511 < a.toNat) (sp : Byte) : a ≠ stackAddr sp := by
  rintro rfl
  rw [stackAddr_toNat] at ha
  omega

/-- The flags after an exception was taken. -/
def Flags.afterException (p : Flags) : Flags := { p with i := true, d := false }

/-- What the three pushes, the flags and a vector read leave is what `Entered` says. -/
theorem entered_of_pushed {pc : Addr} {p : Byte} {u : State} (hu : Pushed [hi pc, lo pc, p] n s u)
    (ht : t.still = (u.setP s.p.afterException).still) : Entered s t pc p := by
  have hmem (a : Addr) : t.memByte a = u.memByte a := memByte_of_still ht a
  have hsp : t.sp = s.sp - 3 := (State.sp_of_still ht).trans hu.sp_eq
  have hp : t.p = s.p.afterException := State.p_of_still ht
  have hram : t.ram = u.ram := by rw [State.ram_of_still ht, State.setP_ram]
  refine ⟨?_, hp, ?_, ?_, ?_, fun b h0 h1 h2 => ?_, ?_⟩
  · rw [hsp]
    bv_omega
  · rw [hmem]
    simpa using hu.stored 0 _ rfl
  · rw [hmem]
    exact hu.stored 1 _ rfl
  · rw [hmem]
    exact hu.stored 2 _ rfl
  · rw [hmem]
    refine hu.kept b fun k hk => ?_
    obtain rfl | rfl | rfl : k = 0 ∨ k = 1 ∨ k = 2 := by
      have hk : k < 3 := hk
      omega
    · simpa only [BitVec.ofNat_eq_ofNat, BitVec.sub_zero] using h0
    · exact h1
    · exact h2
  · rw [ht, hsp, hp, hram, State.still_setP, hu.rest_kept]
    rfl

/-- Taking an exception, `n` cycles after `s` and with nothing changed since: five cycles for pushes and vector. -/
theorem takeException_entered {vec v : Addr} (b : Bool) (hstart : Pushed [] n s t) (hram : pushesToRam 3 s = true)
    (hvec : 511 < vec.toNat) (hvec' : 511 < (vec + 1).toNat) (hl : s.memByte vec = some (lo v))
    (hh : s.memByte (vec + 1) = some (hi v)) :
    ∃ u, takeException b vec t = .ok () u ∧ u.pc = v ∧ u.cycles = (s.ticks (n + 5)).cycles ∧
      Entered s u t.pc (s.p.pByte b) := by
  rw [pushesToRam_iff] at hram
  obtain ⟨t1, e1, h1⟩ := hstart.push (by simp) (hram 0 (by omega)) (hi t.pc)
  obtain ⟨t2, e2, h2⟩ := h1.push (by simp) (hram 1 (by omega)) (lo t.pc)
  obtain ⟨t3, e3, h3⟩ := h2.push (by simp) (hram 2 (by omega)) (s.p.pByte b)
  have hpushed : Pushed [hi t.pc, lo t.pc, s.p.pByte b] (n + 3) s t3 := h3
  have hvector := loadVector_memByte (s := t3.setP s.p.afterException)
    ((hpushed.kept vec fun _ _ => ne_stackAddr hvec _).trans hl)
    ((hpushed.kept (vec + 1) fun _ _ => ne_stackAddr hvec' _).trans hh)
  rw [join_hi_lo] at hvector
  refine ⟨(t3.setP s.p.afterException).tick.tick.setPc v, ?_, rfl, ?_, entered_of_pushed hpushed (by simp)⟩
  · simp only [takeException, bind_apply, look_apply, e1, e2, h2.p_kept, e3, update_apply, h3.p_kept]
    exact hvector
  · have htick : (t3.setP s.p.afterException).tick.cycles = (s.ticks (n + 4)).cycles :=
      State.cycles_tick (t := t3.setP s.p.afterException) h3.cfg_kept h3.cycles_spent
    exact State.cycles_tick ((State.tick_cfg _).trans h3.cfg_kept) htick

/-- The status byte that BRK pushes, bits 5 and 4 set (R25). -/
theorem pByte_true (p : Flags) : p.pByte true = BitVec.ofNat 8 (num p.n * 128 + num p.v * 64 + 48 + num p.d * 8 +
    num p.i * 4 + num p.z * 2 + num p.c) := by
  simp only [Flags.pByte, toNat_eq_num]
  rfl

end

/-- Settles O30: JSR is a run of two pushes, RTS two pulls. -/
theorem jsrAndRtsCallAndReturn : Obligations.JsrAndRtsCallAndReturn := by
  refine ⟨fun _ _ => jsr_of_pushable, fun target s hfetch hram hwf => ?_, fun _ => rts_of_pullable,
    fun _ _ _ => rts_memByte, fun _ => rfl, rfl⟩
  obtain ⟨t, e, ht⟩ := jsr_pushed (target := target) hfetch hram hwf
  refine ⟨_, e, rfl, ht.cycles_spent, ?_, ht.stored 1 _ rfl, fun b h0 h1 => ht.kept b fun k hk => ?_, ht.rest_kept⟩
  · simpa using ht.stored 0 _ rfl
  · obtain rfl | rfl : k = 0 ∨ k = 1 := by
      have hk : k < 2 := hk
      omega
    · simpa only [BitVec.ofNat_eq_ofNat, BitVec.sub_zero] using h0
    · exact h1

/-- Settles O11: three pulls, of which the first gives the flags. -/
theorem rtiRestoresStatusAndPc : Obligations.RtiRestoresStatusAndPc :=
  ⟨fun _ => rti_of_pullable, fun _ _ _ _ => rti_memByte, rfl⟩

/-- Settles O10: in architectural mode the padding byte is fetched and an exception taken, whose cycles start then. -/
theorem brkTakesTheSoftwareInterrupt : Obligations.BrkTakesTheSoftwareInterrupt := by
  refine ⟨fun s pad hmode => ?_, fun s pad v hmode hwf hpad hram hl hh => ?_⟩
  · show run (softwareInterrupt pad) s = _
    simp only [run_apply, softwareInterrupt, bind_apply, look_apply, hmode, raise_apply, finish_error]
  · obtain ⟨u, e, hu, hpc⟩ := operandByte_ok pad hpad
    have hstart : Pushed [] 1 s u := .nil hu (operandByte_cycles e) hwf
    obtain ⟨t, et, htpc, hcycles, hentered⟩ :=
      takeException_entered (vec := vecIrq) true hstart hram (by decide) (by decide) hl hh
    refine ⟨t, ?_, htpc, hcycles, ?_⟩
    · show run (softwareInterrupt pad) s = _
      simp only [run_apply, softwareInterrupt, bind_apply, look_apply, hmode, e, et, finish_ok]
    · rwa [hpc, pByte_true] at hentered

end Sys2Proof.Machine
end

section
/-! Stack instructions (R360 to R368): a push is a bus write and then SP, a pull is SP and then a bus read; the
instructions are internal cycles before one of them. -/

namespace Sys2Proof.Machine

open Sys2Proof.Claims

/-! ## Push and pull (R360) -/

/-- The stack address in arithmetic: page one, SP below (R21). -/
theorem stackAddr_eq_ofNat (sp : Byte) : stackAddr sp = BitVec.ofNat 16 (0x100 + sp.toNat) := by
  rw [← stackAddr_toNat, BitVec.ofNat_toNat, BitVec.setWidth_eq]

/-- A pull is a bus read at the SP above. -/
theorem pull_apply (s : State) : pull s = busRead (stackAddr (s.sp + 1)) (s.setSp (s.sp + 1)) := by
  simp only [pull, bind_apply, look_apply, update_apply, State.setSp_sp]

/-- A pull has moved SP, whether its read faults or not. -/
theorem pull_sp (s : State) : (endState (pull s)).sp = s.sp + 1 := by
  rw [pull_apply, State.sp_of_still (busRead_still _ _), State.setSp_sp]

/-- A push faults where its bus write does, before SP is changed. -/
theorem push_error_sp {s t : State} {v : Byte} {f : Fault} (h : push v s = .error f t) : t.sp = s.sp := by
  have hsp := busWrite_sp (stackAddr s.sp) v s
  simp only [push, bind_apply, look_apply] at h
  cases e : busWrite (stackAddr s.sp) v s with
  | ok _ u =>
    rw [e] at h
    cases h
  | error g u =>
    rw [e] at h hsp
    cases h
    exact hsp

/-- Settles O31: SP moves after the write of a push and before the read of a pull. -/
theorem stackPrimitivesPushAndPull : Obligations.StackPrimitivesPushAndPull := by
  refine fun s => ⟨fun v hwritable => ?_, fun _ _ _ => push_error_sp, fun hreadable => ?_, fun f t e => ?_⟩
  · obtain ⟨t, ewrite, epush⟩ := push_ok v hwritable
    have hdown : s.sp - 1 = BitVec.ofNat 8 (s.sp.toNat + 255) := by bv_omega
    refine ⟨t, by rwa [← stackAddr_eq_ofNat], by rw [epush, hdown]; rfl, fun hram hwf =>
      ⟨(busWrite_ram_frame hram hwf ewrite).2, fun b hb => ?_⟩⟩
    simpa [ewrite] using busWrite_memByte_other (stackAddr s.sp) b v s hb
  · obtain ⟨v, t, e, -, -⟩ := pull_ok hreadable
    have hup : BitVec.ofNat 8 (s.sp.toNat + 1) = s.sp + 1 := by bv_omega
    have haddr : BitVec.ofNat 16 (0x100 + (s.sp.toNat + 1) % 256) = stackAddr (s.sp + 1) := by
      rw [stackAddr_eq_ofNat, BitVec.toNat_add]
      rfl
    refine ⟨v, t, ?_, e⟩
    rwa [hup, haddr, ← State.setSp, ← pull_apply]
  · have hsp := pull_sp s
    rw [e, endState_error] at hsp
    rw [hsp, BitVec.toNat_add]
    rfl

/-! ## The pushes (R361 to R364) -/

theorem pushesValue_of_exec_pushInstr {i : Instr} {value : State → Byte}
    (hexec : ∀ s, exec i s = run (pushInstr value) s) (hvalue : ∀ s : State, value s.tick = value s) :
    PushesValue i value := by
  intro s
  have hpush : exec i s = finish (push (value s) s.tick) := by
    simp only [hexec, run_apply, pushInstr, bind_apply, internal_apply, look_apply, hvalue]
  refine ⟨hpush, fun hpushable => ?_⟩
  rw [← pushable_of_still s.tick_still] at hpushable
  obtain ⟨t, e, -⟩ := push_of_pushable hpushable (value s)
  exact ⟨t, e, by rw [hpush, e, finish_ok]⟩

/-- Settles O32: the four pushes are one operation, and the internal cycle leaves the value to be pushed as it was. -/
theorem pushesStoreTheirRegister : Obligations.PushesStoreTheirRegister := by
  refine ⟨pushesValue_of_exec_pushInstr (fun _ => rfl) State.tick_a,
    pushesValue_of_exec_pushInstr (fun _ => rfl) State.tick_x,
    pushesValue_of_exec_pushInstr (fun _ => rfl) State.tick_y, ?_, rfl, rfl, rfl, rfl⟩
  simp only [← pByte_true]
  exact pushesValue_of_exec_pushInstr (fun _ => rfl) fun s => by rw [State.tick_p]

/-! ## The pulls (R365 to R368) -/

theorem pullsInto_of_exec_pullInstr {i : Instr} {put : State → Byte → State}
    (hexec : ∀ s, exec i s = run (pullInstr put) s) : PullsInto i put := by
  have hpull (s : State) : exec i s = finish ((pull >>= fun v => update fun u => put u v) (s.ticks 2)) := by
    simp only [hexec, run_apply, pullInstr, bind_apply, internal_apply, State.ticks]
  intro s
  refine ⟨fun hpullable => ?_, fun f u e => ?_⟩
  · rw [← pullable_of_still (s.ticks_still 2)] at hpullable
    obtain ⟨v, u, e, -⟩ := pull_of_pullable hpullable
    exact ⟨v, u, e, by simp only [hpull, bind_apply, e, update_apply, finish_ok]⟩
  · simp only [hpull, bind_apply, e, finish_error]

/-- A pull into a register sets N and Z by the byte. -/
theorem pullsInto_register {i : Instr} {set : State → Byte → State}
    (hexec : ∀ s, exec i s = run (pullInstr fun u v => (set u v).setNZ v) s) (hflags : ∀ u v, (set u v).p = u.p) :
    PullsInto i fun u v => { set u v with p := withNZ u.p v } := by
  simp only [State.setNZ_eq_withNZ, hflags] at hexec
  exact pullsInto_of_exec_pullInstr hexec

/-- Settles O33: the four pulls are one operation; PLP unpacks the byte, which keeps the stored B. -/
theorem pullsLoadTheirRegister : Obligations.PullsLoadTheirRegister :=
  ⟨pullsInto_register (set := State.setA) (fun _ => rfl) fun _ _ => rfl,
    pullsInto_register (set := State.setX) (fun _ => rfl) fun _ _ => rfl,
    pullsInto_register (set := State.setY) (fun _ => rfl) fun _ _ => rfl,
    pullsInto_of_exec_pullInstr fun _ => rfl, rfl, rfl, rfl, rfl⟩

end Sys2Proof.Machine
end

section
/-! Flag and system instructions (R369 to R378), and the steps of a machine that does not run (R400, R414). -/

namespace Sys2Proof.Machine

open Sys2Proof.Claims

/-! ## Flags and NOP (R369 to R376) -/

theorem implied_of_exec_flagInstr {i : Instr} {f : Flags → Flags} (hexec : ∀ s, exec i s = run (flagInstr f) s) :
    Implied i fun t => { t with p := f t.p } := by
  intro s
  simp only [hexec, run_apply, flagInstr, bind_apply, internal_apply, update_apply, finish_ok, State.setP]

/-- Settles O34: the seven flag instructions are one operation; NOP is its internal cycle alone. -/
theorem flagInstructionsAndNop : Obligations.FlagInstructionsAndNop :=
  ⟨implied_of_exec_flagInstr (f := fun p => { p with c := false }) fun _ => rfl,
    implied_of_exec_flagInstr (f := fun p => { p with c := true }) fun _ => rfl,
    implied_of_exec_flagInstr (f := fun p => { p with i := false }) fun _ => rfl,
    implied_of_exec_flagInstr (f := fun p => { p with i := true }) fun _ => rfl,
    implied_of_exec_flagInstr (f := fun p => { p with d := false }) fun _ => rfl,
    implied_of_exec_flagInstr (f := fun p => { p with d := true }) fun _ => rfl,
    implied_of_exec_flagInstr (f := fun p => { p with v := false }) fun _ => rfl,
    fun _ => rfl, rfl, rfl, rfl, rfl, rfl, rfl, rfl, rfl⟩

/-! ## Modes (R377, R378, R400) -/

theorem run_enterMode (m : Mode) (s : State) : run (enterMode m) s = .next ((s.ticks 2).setMode m) := by
  simp only [run_apply, enterMode, bind_apply, internal_apply, update_apply, finish_ok, State.ticks]

theorem step_latched {s : State} {f : Fault} (hfault : s.fault = some f) : step s = .refused (.latched f) := by
  simp only [step, hfault]

section
variable {s : State} (hfault : s.fault = none)
include hfault

theorem step_stop (hmode : s.mode = .stop) : step s = .next s := by simp only [step, hfault, hmode]

/-- A waiting machine spends a cycle, or wakes and runs an instruction in the same step (R400 step 2). -/
theorem step_wait (hmode : s.mode = .wait) :
    step s = if s.interruptPending then step s.wake else .next s.tick := by
  rw [step_run (s := s.wake) hfault rfl]
  simp only [step, hfault, hmode]

end

/-- Settles O7: the step reads the latch, then the mode; WAI and STP only set the mode. -/
theorem waitStopAndFaultedModes : Obligations.WaitStopAndFaultedModes := by
  refine fun s => ⟨run_enterMode .wait s, run_enterMode .stop s, fun _ => step_latched, step_stop,
    fun hfault hmode hnmi hirq => ?_, fun hfault hmode hpending => ?_⟩
  · have hidle : s.interruptPending = false := by simp [State.interruptPending, hnmi, hirq]
    simp [step_wait hfault hmode, hidle]
  · have hwakes : s.interruptPending = true := by simpa [State.interruptPending] using hpending
    rw [step_wait hfault hmode, if_pos hwakes]
    rfl

end Sys2Proof.Machine
end

section
/-! Interrupts (R400 step 3, R410 to R412, R419 to R421): what an entry leaves, and which one the poll takes. -/

namespace Sys2Proof.Machine

open Sys2Proof.Claims

/-! ## Entry (R420) -/

/-- The status byte that an interrupt pushes, bit 5 set and bit 4 clear (R25). -/
theorem pByte_false (p : Flags) : p.pByte false = BitVec.ofNat 8 (num p.n * 128 + num p.v * 64 + 32 + num p.d * 8 +
    num p.i * 4 + num p.z * 2 + num p.c) := by
  simp only [Flags.pByte, toNat_eq_num]
  rfl

/-- An entry is two internal cycles and then an exception with the break bit clear. -/
theorem enterInterrupt_apply (vec : Addr) (s : State) :
    enterInterrupt vec s = takeException false vec s.tick.tick := by
  simp only [enterInterrupt, bind_apply, internal_apply]

/-- Settles O8: an entry takes an exception two cycles on, and both vectors lie above the stack. -/
theorem interruptEntrySavesAndVectors : Obligations.InterruptEntrySavesAndVectors := by
  intro s vec v hvec hwf hram hl hh
  obtain ⟨habove, habove'⟩ : 511 < vec.toNat ∧ 511 < (vec + 1).toNat := by
    rcases hvec with rfl | rfl <;> decide
  have hstart : Pushed [] 2 s s.tick.tick := .nil (s.ticks_still 2) rfl hwf
  obtain ⟨t, e, hpc, hcycles, hentered⟩ := takeException_entered false hstart hram habove habove' hl hh
  rw [pByte_false, State.tick_pc, State.tick_pc] at hentered
  exact ⟨t, (enterInterrupt_apply vec s).trans e, hpc, hcycles, hentered⟩

/-! ## The poll (R410, R419) -/

/-- An entry takes no pending interrupt back: it writes what BRK writes. -/
theorem enterInterrupt_latchesKept (vec : Addr) : Always (LatchesKept (.brk 0)) (enterInterrupt vec) :=
  have hR := instrFrame_latchesKept (.brk 0)
  hR.bind hR.internal fun _ => hR.bind hR.internal fun _ => (hR.bus Stores.noConfusion).takeException
    (hR.setSp (listed rfl)) (fun _ => .of_eq rfl ⟨rfl, rfl⟩) false vec

section
variable {s u : State}

theorem pollInterrupts_nmi (hnmi : s.pendingNmi = true) (e : enterInterrupt vecNmi (s.setPendingNmi false) = .ok () u) :
    pollInterrupts s = .ok (some .nmi) u := by
  simp only [pollInterrupts, bind_apply, look_apply, hnmi, if_true, update_apply, e, pure_apply]

theorem pollInterrupts_irq (hnmi : s.pendingNmi = false) (hirq : s.pendingIrq = true) (hi : s.p.i = false)
    (e : enterInterrupt vecIrq (s.setPendingIrq false) = .ok () u) : pollInterrupts s = .ok (some .irq) u := by
  simp [pollInterrupts, hnmi, hirq, hi, e]

/-- After the poll the step fetches the opcode where PC then stands, and executes its instruction (R400 steps 4 to
6). -/
theorem step_of_pollInterrupts {q : Option IrqLine} (hpoll : pollInterrupts s = .ok q u) (hfault : s.fault = none)
    (hmode : s.mode = .run) {op : Byte} (hop : u.memByte u.pc = some op) :
    step s = exec (instrAt op (u.tick.setPc (u.pc + 1))) (u.tick.setPc (u.pc + 1)) := by
  simp only [step_run hfault hmode, runInstruction, pollAndFetch, bind_apply, hpoll, fetch_memByte hop, pure_apply]

end

/-- Settles O9: each clause is one branch of the poll. -/
theorem pollTakesNmiBeforeIrq : Obligations.PollTakesNmiBeforeIrq := by
  refine fun s => ⟨fun hnmi u e => ?_, fun hnmi hirq hi u e => ?_, pollInterrupts_none⟩
  · have hpoll := pollInterrupts_nmi hnmi e
    exact ⟨hpoll, ((enterInterrupt_latchesKept _).ok e).irq,
      fun hfault hmode _ => step_of_pollInterrupts hpoll hfault hmode⟩
  · have hpoll := pollInterrupts_irq hnmi hirq hi e
    exact ⟨hpoll, fun hfault hmode _ => step_of_pollInterrupts hpoll hfault hmode⟩

end Sys2Proof.Machine
end

section
/-! The trace record (R400 step 7, R401): its cycles are what the counter has advanced. -/

namespace Sys2Proof.Machine

/-- Adding the cycles between two counter values to the first gives the second (R26). -/
theorem add_cyclesBetween {c : Cfg} {c0 c1 : Nat} (h0 : c0 < 2 ^ c.cycleBits) (h1 : c1 < 2 ^ c.cycleBits) :
    (c0 + cyclesBetween c c0 c1) % 2 ^ c.cycleBits = c1 := by
  rw [cyclesBetween, Nat.add_mod_mod, Nat.add_sub_cancel' (by omega), Nat.add_mod_right, Nat.mod_eq_of_lt h1]

/-- If steps 3 to 6 of R400, begun in state `w` of a step from `s`, end without a fault, the step returns a record of the
cycles since `s`. -/
theorem returnOfInstruction_cycles {s w t : State} (e : runInstruction w = .next t) (hfault : t.fault = none) :
    ∃ r, returnOfInstruction s w = .trace r ∧ r.cycles = cyclesBetween s.cfg s.cycles t.cycles := by
  unfold runInstruction at e
  cases hp : pollAndFetch w with
  | error f u =>
    rw [hp] at e
    cases e
    cases hfault
  | ok q u =>
    obtain ⟨interrupt, op⟩ := q
    rw [hp] at e
    exact ⟨instrTrace s t interrupt (u.pc - 1) op (instrAt op u),
      by simp only [returnOfInstruction, hp, e, hfault], rfl⟩

/-- What a step returns that ends without a fault: nothing spent in STOP, one cycle of waiting, or the cycles of an
instruction. -/
theorem traceOf_cycles {s t : State} (hfault : s.fault = none) (e : step s = .next t) (ht : t.fault = none) :
    ∃ r, traceOf s = .trace r ∧
      (r.cycles = 0 ∧ t = s ∨ r.cycles = 1 ∧ t = s.tick ∨ r.cycles = cyclesBetween s.cfg s.cycles t.cycles) := by
  cases hmode : s.mode with
  | stop =>
    rw [step_stop hfault hmode] at e
    cases e
    exact ⟨⟨.stopped, none, none, 0⟩, by simp only [traceOf, hfault, hmode], .inl ⟨rfl, rfl⟩⟩
  | wait =>
    rw [step_wait hfault hmode] at e
    simp only [traceOf, hfault, hmode]
    split at e
    · rw [step_run (s := s.wake) hfault rfl] at e
      obtain ⟨r, hr, hcycles⟩ := returnOfInstruction_cycles (s := s) e ht
      exact ⟨r, by rwa [if_pos ‹_›], .inr (.inr hcycles)⟩
    · cases e
      exact ⟨_, if_neg ‹_›, .inr (.inl ⟨rfl, rfl⟩)⟩
  | run =>
    rw [step_run hfault hmode] at e
    obtain ⟨r, hr, hcycles⟩ := returnOfInstruction_cycles (s := s) e ht
    exact ⟨r, by simpa only [traceOf, hfault, hmode] using hr, .inr (.inr hcycles)⟩

/-- Settles O44: legal states have counters in range, before the step and after it. -/
theorem traceReportsTheCyclesSpent : Obligations.TraceReportsTheCyclesSpent := by
  intro s t hinv hfault e ht
  obtain ⟨r, hr, hcycles⟩ := traceOf_cycles hfault e ht
  refine ⟨r, hr, ?_⟩
  obtain ⟨hnone, rfl⟩ | ⟨hone, rfl⟩ | hcycles := hcycles
  · rw [hnone, Nat.add_zero, Nat.mod_eq_of_lt hinv.cyclesFit]
  · rw [hone, State.tick_cycles, nextCycle]
  · have hfit := (stepKeepsLegalStates s t hinv e).cyclesFit
    rw [(step_hostKept e).cfg] at hfit
    rw [hcycles, add_cyclesBetween hinv.cyclesFit hfit]

end Sys2Proof.Machine
end

section
/-! The instruction of a step (R141, R142, R181, R400 step 5): the bytes looked ahead are those that memory holds, except
the displacement of a BBRn or BBSn whose zero-page read faults, which is never used (log 3). -/

namespace Sys2Proof

/-- A cell that a default does not fill is in the list. -/
theorem mem_of_getD_ne {α : Type} {l : List α} {k : Nat} {d : α} (h : l.getD k d ≠ d) : l.getD k d ∈ l := by
  rw [List.getD_eq_getElem?_getD] at h ⊢
  cases hk : l[k]? with
  | none => exact absurd (by rw [hk]; rfl) h
  | some x => exact List.mem_of_getElem? hk

/-- What a cell with a zero-page byte and a displacement names. -/
def Entry.zpr? : Entry → Option (Byte → Byte → Instr)
  | .zpr f => some f
  | _ => none

/-- Each row of the matrix has one such cell, and it is a branch on a bit (R145). -/
theorem matrix_map_filterMap_zpr? : matrix.map (List.filterMap Entry.zpr?) =
    [[.bbr0], [.bbr1], [.bbr2], [.bbr3], [.bbr4], [.bbr5], [.bbr6], [.bbr7]] ++
    [[.bbs0], [.bbs1], [.bbs2], [.bbs3], [.bbs4], [.bbs5], [.bbs6], [.bbs7]] := rfl

theorem exists_row_of_entryAt_zpr {lvl : IsaLevel} {op : Byte} {f : Byte → Byte → Instr}
    (h : entryAt lvl op = .zpr f) : ∃ row ∈ matrix, Entry.zpr f ∈ row := by
  have hcell : matrixCell op = .zpr f := by
    unfold entryAt at h
    split at h
    · exact h
    · cases h
  have hrow : Entry.zpr f ∈ matrix.getD (op.toNat / 16) [] := by
    rw [← hcell]
    exact mem_of_getD_ne (by rw [← matrixCell, hcell]; exact Entry.noConfusion)
  exact ⟨_, mem_of_getD_ne (List.ne_nil_of_mem hrow), hrow⟩

end Sys2Proof

namespace Sys2Proof.Machine

/-- A cell with a zero-page byte and a displacement branches on a bit (R330, R331). -/
theorem exec_of_entryAt_zpr {lvl : IsaLevel} {op : Byte} {f : Byte → Byte → Instr} (h : entryAt lvl op = .zpr f) :
    ∃ n b, ∀ z d s, exec (f z d) s = run (branchOnBit n b z d) s := by
  obtain ⟨row, hrow, hcell⟩ := exists_row_of_entryAt_zpr h
  have hf : f ∈ row.filterMap Entry.zpr? := List.mem_filterMap.mpr ⟨_, hcell, rfl⟩
  have hrows := List.mem_map_of_mem (f := List.filterMap Entry.zpr?) hrow
  rw [matrix_map_filterMap_zpr?] at hrows
  generalize row.filterMap Entry.zpr? = fs at hf hrows
  simp only [List.cons_append, List.nil_append, List.mem_cons, List.not_mem_nil, or_false] at hrows
  rcases hrows with rfl | rfl | rfl | rfl | rfl | rfl | rfl | rfl | rfl | rfl | rfl | rfl | rfl | rfl | rfl | rfl <;>
  · cases List.mem_singleton.mp hf
    exact ⟨_, _, fun _ _ _ => rfl⟩

/-! ## Looking ahead -/

section
variable {s u v : State}

theorem valueOf_ok {x : Exec Byte} {b : Byte} (e : x s = .ok b u) : valueOf x s = b := by rw [valueOf, e]

theorem valueOf_fetch {b : Byte} (h : s.memByte s.pc = some b) : valueOf fetch s = b := valueOf_ok (fetch_memByte h)

theorem valueOf_fetchSecond {l h : Byte} (hl : s.memByte s.pc = some l) (hh : s.memByte (s.pc + 1) = some h) :
    valueOf fetchSecond s = h := by
  have hh' : (s.tick.setPc (s.pc + 1)).memByte (s.pc + 1) = some h := by simpa using hh
  refine valueOf_ok (u := (s.tick.setPc (s.pc + 1)).tick.setPc (s.pc + 1 + 1)) ?_
  simp only [fetchSecond, bind_apply, fetch_memByte hl]
  exact fetch_memByte hh'

/-- The displacement byte is the one that memory holds, whatever device the zero-page read was of. -/
theorem valueOf_fetchDisplacement {z d m : Byte} (hz : s.memByte s.pc = some z) (hd : s.memByte (s.pc + 1) = some d)
    (e : busRead (zeroPage z) (s.tick.setPc (s.pc + 1)) = .ok m v) : valueOf fetchDisplacement s = d := by
  have hstill : v.tick.still = s.still := by
    rw [State.tick_still, busRead_ok_still e, State.still_setPc, State.tick_still]
  have hpc : v.tick.pc = s.pc + 1 := by rw [State.tick_pc, busRead_ok_pc e, State.setPc_pc]
  have hd' : v.tick.memByte v.tick.pc = some d := by rw [hpc, memByte_of_still hstill, hd]
  refine valueOf_ok (u := v.tick.tick.setPc (v.tick.pc + 1)) ?_
  simp only [fetchDisplacement, bind_apply, fetch_memByte hz, e, internal_apply]
  exact fetch_memByte hd'

/-- A branch on a bit whose zero-page read faults does not get to its displacement. -/
theorem run_branchOnBit_error {n : Nat} {b : Bool} {z : Byte} {f : Fault} (hz : s.memByte s.pc = some z)
    (e : busRead (zeroPage z) (s.tick.setPc (s.pc + 1)) = .error f v) (d : Byte) :
    run (branchOnBit n b z d) s = .next (v.latch f) := by
  simp only [run_apply, branchOnBit, bind_apply, operandByte_of_fetch z (fetch_memByte hz), e, finish_error]

/-! ## The instruction -/

theorem instrAt_of_operandsAhead {op l h : Byte} {entry : Entry} (he : entryAt s.cfg.isaLevel op = entry)
    (hahead : operandsAhead op s = entry.operandBytes l h) : instrAt op s = entry.instr op l h := by
  have hdecode := decode_operandBytes_append s.cfg.isaLevel op l h []
  rw [List.append_nil, he, ← hahead] at hdecode
  simp only [instrAt, hdecode]

/-- Where memory holds the operand bytes of a cell, the step's instruction does what the cell's instruction does. -/
theorem exec_instrAt {op l h : Byte}
    (hmem : ∀ k b, ((entryAt s.cfg.isaLevel op).operandBytes l h)[k]? = some b →
      s.memByte (s.pc + BitVec.ofNat 16 k) = some b) :
    exec (instrAt op s) s = exec ((entryAt s.cfg.isaLevel op).instr op l h) s := by
  have hfirst : ∀ b, ((entryAt s.cfg.isaLevel op).operandBytes l h)[0]? = some b → s.memByte s.pc = some b := by
    simpa using hmem 0
  have hsecond := hmem 1
  cases he : entryAt s.cfg.isaLevel op with
  | illegal | one i => rw [instrAt_of_operandsAhead (l := l) (h := h) he (by simp only [operandsAhead, he]; rfl)]
  | two f =>
    rw [he] at hfirst
    have hahead : operandsAhead op s = [l] := by simp only [operandsAhead, he, valueOf_fetch (hfirst _ rfl)]
    rw [instrAt_of_operandsAhead (h := h) he hahead]
  | three f =>
    rw [he] at hfirst hsecond
    have hahead : operandsAhead op s = [lo (join h l), hi (join h l)] := by
      simp only [operandsAhead, he, valueOf_fetch (hfirst _ rfl), valueOf_fetchSecond (hfirst _ rfl) (hsecond _ rfl)]
    rw [instrAt_of_operandsAhead he hahead]
  | zpr f =>
    rw [he] at hfirst hsecond
    have hz : s.memByte s.pc = some l := hfirst _ rfl
    cases hread : busRead (zeroPage l) (s.tick.setPc (s.pc + 1)) with
    | ok m v =>
      have hahead : operandsAhead op s = [l, h] := by
        simp only [operandsAhead, he, valueOf_fetch hz, valueOf_fetchDisplacement hz (hsecond _ rfl) hread]
      rw [instrAt_of_operandsAhead he hahead]
    | error g v =>
      obtain ⟨n, b, hexec⟩ := exec_of_entryAt_zpr he
      have hinstr : instrAt op s = f l (valueOf fetchDisplacement s) := by
        simp only [instrAt, operandsAhead, decode, he, valueOf_fetch hz]
      simp only [hinstr, Entry.instr, hexec, run_branchOnBit_error hz hread]

end

/-- Settles O5: the instruction is a cell's, so its encoding is an opcode, which the step fetches, and the cell's operand
bytes, for which it looks ahead. -/
theorem stepRunsTheDecodedInstruction : Obligations.StepRunsTheDecodedInstruction := by
  intro s i hfault hmode hnmi hirq hwf hmem
  obtain ⟨op, l, h, rfl⟩ := exists_entryAt_of_wellFormed hwf
  rw [encode_entryAt_instr] at hmem
  have hop : s.memByte s.pc = some op := by simpa using hmem 0 op rfl
  have hlevel : (s.tick.setPc (s.pc + 1)).cfg = s.cfg := s.tick_cfg
  rw [step_of_fetch_ok hfault hmode hnmi hirq (fetch_memByte hop), ← hlevel]
  refine exec_instrAt fun k b hb => ?_
  have hpc : s.pc + 1 + BitVec.ofNat 16 k = s.pc + BitVec.ofNat 16 (k + 1) := by bv_omega
  rw [State.setPc_pc, hpc, memByte_setPc, memByte_tick]
  exact hmem (k + 1) b (by rwa [hlevel] at hb)

end Sys2Proof.Machine
end

section
/-! The VIA's timers (R480 to R483): what one edge does to each, and that a counter holding V takes V edges to run
out. -/

namespace Sys2Proof.Machine

open Sys2Proof.Claims

namespace Via

/-! ## Flags -/

theorem setFlag_ifr_same (v : Via) {m : Nat} (hm : m < 7) : (v.setFlag m).1.ifr.getLsbD m = true := by
  simp [v.setFlag_ifr m m hm]

/-- Setting a flag leaves the others alone. -/
theorem setFlag_ifr_other (v : Via) {m n : Nat} (hm : m < 7) (hn : n ≠ m) :
    (v.setFlag m).1.ifr.getLsbD n = v.ifr.getLsbD n := by simp [v.setFlag_ifr m n hm, hn]

/-! ## Counting -/

/-- From `v` to `w` timer 1 has counted down by `n` and done nothing else; what it works on is as it was. -/
structure CountedT1 (v : Via) (n : Nat) (w : Via) : Prop where
  counter : w.t1c.toNat + n = v.t1c.toNat
  active : w.t1Active = v.t1Active
  latch : w.t1l = v.t1l
  freeRunning : w.t1FreeRunning = v.t1FreeRunning
  pb7 : w.pb7OutputEnabled = v.pb7OutputEnabled
  port : w.iorb = v.iorb
  enabled : w.ier = v.ier
  flag : w.ifr.getLsbD ifrT1 = v.ifr.getLsbD ifrT1

/-- From `v` to `w` timer 2 has counted down by `n` and done nothing else; what it works on is as it was. -/
structure CountedT2 (v : Via) (n : Nat) (w : Via) : Prop where
  counter : w.t2c.toNat + n = v.t2c.toNat
  active : w.t2Active = v.t2Active
  countsPulses : w.t2CountsPulses = v.t2CountsPulses
  latch : w.t2l = v.t2l
  enabled : w.ier = v.ier
  flag : w.ifr.getLsbD ifrT2 = v.ifr.getLsbD ifrT2

section
variable {v w u : Via} {m n : Nat}

theorem CountedT1.refl (v : Via) : v.CountedT1 0 v := ⟨rfl, rfl, rfl, rfl, rfl, rfl, rfl, rfl⟩

theorem CountedT2.refl (v : Via) : v.CountedT2 0 v := ⟨rfl, rfl, rfl, rfl, rfl, rfl⟩

theorem CountedT1.trans (h : v.CountedT1 m w) (h' : w.CountedT1 n u) : v.CountedT1 (n + m) u where
  counter := by rw [← h.counter, ← h'.counter, Nat.add_assoc]
  active := h'.active.trans h.active
  latch := h'.latch.trans h.latch
  freeRunning := h'.freeRunning.trans h.freeRunning
  pb7 := h'.pb7.trans h.pb7
  port := h'.port.trans h.port
  enabled := h'.enabled.trans h.enabled
  flag := h'.flag.trans h.flag

theorem CountedT2.trans (h : v.CountedT2 m w) (h' : w.CountedT2 n u) : v.CountedT2 (n + m) u where
  counter := by rw [← h.counter, ← h'.counter, Nat.add_assoc]
  active := h'.active.trans h.active
  countsPulses := h'.countsPulses.trans h.countsPulses
  latch := h'.latch.trans h.latch
  enabled := h'.enabled.trans h.enabled
  flag := h'.flag.trans h.flag

theorem CountedT1.counter_eq (h : v.CountedT1 0 w) : w.t1c = v.t1c := BitVec.eq_of_toNat_eq h.counter

theorem CountedT2.counter_eq (h : v.CountedT2 0 w) : w.t2c = v.t2c := BitVec.eq_of_toNat_eq h.counter

/-- A counter that has counted down by what it held is 0. -/
theorem CountedT1.runOut (h : v.CountedT1 v.t1c.toNat w) : w.t1c = 0 :=
  BitVec.eq_of_toNat_eq (Nat.add_eq_right.mp h.counter)

theorem CountedT2.runOut (h : v.CountedT2 v.t2c.toNat w) : w.t2c = 0 :=
  BitVec.eq_of_toNat_eq (Nat.add_eq_right.mp h.counter)

end

theorem toNat_sub_one_add_one {c : BitVec 16} (h : c ≠ 0) : (c - 1).toNat + 1 = c.toNat := by bv_omega

/-! ## One edge of timer 1 (R481) -/

section
variable {v : Via}

theorem edgeT1_idle (h : v.t1Active = false) : v.edgeT1 = (v, false) := by simp [edgeT1, h]

theorem edgeT1_counts (h : v.t1Active = true) (hc : v.t1c ≠ 0) :
    v.edgeT1 = ({ v with t1c := v.t1c - 1 }, false) := by
  simp only [edgeT1, h, hc, if_true, if_false]

/-- Timer 1 runs out: its flag, the request, PB7 where it is an output, and the reload or the stop. -/
theorem edgeT1_fires (h : v.t1Active = true) (hc : v.t1c = 0) : v.edgeT1 = ({ v with
    ifr := (v.setFlag ifrT1).1.ifr
    iorb := if v.pb7OutputEnabled then v.iorb ^^^ 0x80 else v.iorb
    t1c := if v.t1FreeRunning then v.t1l else 0xFFFF
    t1Active := v.t1FreeRunning }, v.ier.getLsbD ifrT1) := by
  cases hfree : v.t1FreeRunning <;> cases hpb7 : v.pb7OutputEnabled <;>
    simp [edgeT1, h, hc, hfree, hpb7, setFlag, togglePb7]

theorem countedT1_edgeT1 (h : v.t1Active = true) (hc : v.t1c ≠ 0) : v.CountedT1 1 v.edgeT1.1 := by
  rw [edgeT1_counts h hc]
  exact ⟨toNat_sub_one_add_one hc, rfl, rfl, rfl, rfl, rfl, rfl, rfl⟩

/-- Timer 1's edge leaves timer 2 alone. -/
theorem countedT2_edgeT1 (v : Via) : v.CountedT2 0 v.edgeT1.1 := by
  cases h : v.t1Active with
  | false => exact edgeT1_idle h ▸ .refl v
  | true =>
    by_cases hc : v.t1c = 0
    · rw [edgeT1_fires h hc]
      exact ⟨rfl, rfl, rfl, rfl, rfl, v.setFlag_ifr_other (by decide) (by decide)⟩
    · rw [edgeT1_counts h hc]
      exact ⟨rfl, rfl, rfl, rfl, rfl, rfl⟩

end

/-! ## One edge of timer 2 (R482) -/

section
variable {v : Via} (reloads : Bool)

theorem edgeT2_idle (h : (v.t2Active && !v.t2CountsPulses) = false) : v.edgeT2 reloads = (v, false) := by
  simp only [edgeT2, h]
  rfl

theorem edgeT2_counts (h : (v.t2Active && !v.t2CountsPulses) = true) (hc : v.t2c ≠ 0) :
    v.edgeT2 reloads = ({ v with t2c := v.t2c - 1 }, false) := by
  simp only [edgeT2, h, hc, if_true, if_false]

/-- Timer 2 runs out: its flag, the request, and the reload or the stop. -/
theorem edgeT2_fires (h : (v.t2Active && !v.t2CountsPulses) = true) (hc : v.t2c = 0) : v.edgeT2 reloads = ({ v with
    ifr := (v.setFlag ifrT2).1.ifr
    t2c := if reloads then v.t2l else 0xFFFF
    t2Active := reloads }, v.ier.getLsbD ifrT2) := by
  have hactive : v.t2Active = true := (Bool.and_eq_true_iff.mp h).1
  rw [edgeT2, if_pos h, if_pos hc]
  cases reloads <;> simp [setFlag, hactive]

theorem countedT2_edgeT2 (h : (v.t2Active && !v.t2CountsPulses) = true) (hc : v.t2c ≠ 0) :
    v.CountedT2 1 (v.edgeT2 reloads).1 := by
  rw [edgeT2_counts reloads h hc]
  exact ⟨toNat_sub_one_add_one hc, rfl, rfl, rfl, rfl, rfl⟩

/-- Timer 2's edge leaves timer 1 alone. -/
theorem countedT1_edgeT2 (v : Via) : v.CountedT1 0 (v.edgeT2 reloads).1 := by
  cases h : v.t2Active && !v.t2CountsPulses with
  | false => exact edgeT2_idle reloads h ▸ .refl v
  | true =>
    by_cases hc : v.t2c = 0
    · rw [edgeT2_fires reloads h hc]
      exact ⟨rfl, rfl, rfl, rfl, rfl, rfl, rfl, v.setFlag_ifr_other (by decide) (by decide)⟩
    · rw [edgeT2_counts reloads h hc]
      exact ⟨rfl, rfl, rfl, rfl, rfl, rfl, rfl, rfl⟩

end

/-! ## Several edges -/

section
variable {v : Via} (reloads : Bool)

/-- Timer 1 counts as many edges as it holds. -/
theorem countedT1_edges {n : Nat} (h : v.t1Active = true) (hn : n ≤ v.t1c.toNat) :
    v.CountedT1 n (edges reloads n v) := by
  induction n generalizing v with
  | zero => exact .refl v
  | succ n ih =>
    have hc : v.t1c ≠ 0 := fun h0 => by simp [h0] at hn
    have hedge : v.CountedT1 1 (v.clockEdge reloads).1 :=
      (countedT1_edgeT1 h hc).trans (countedT1_edgeT2 reloads v.edgeT1.1)
    have hcounter := hedge.counter
    exact hedge.trans (ih (hedge.active.trans h) (by omega))

/-- Timer 2 counts as many edges as it holds. -/
theorem countedT2_edges {n : Nat} (h : v.t2Active = true) (hclock : v.t2CountsPulses = false) (hn : n ≤ v.t2c.toNat) :
    v.CountedT2 n (edges reloads n v) := by
  induction n generalizing v with
  | zero => exact .refl v
  | succ n ih =>
    have hc : v.t2c ≠ 0 := fun h0 => by simp [h0] at hn
    have hkept := countedT2_edgeT1 v
    have hedge : v.CountedT2 1 (v.clockEdge reloads).1 := hkept.trans
      (countedT2_edgeT2 reloads (by simp [hkept.active, hkept.countsPulses, h, hclock]) (hkept.counter_eq ▸ hc))
    have hcounter := hedge.counter
    exact hedge.trans (ih (hedge.active.trans h) (hedge.countsPulses.trans hclock) (by omega))

/-- Counting pulses, timer 2 is frozen. -/
theorem countedT2_edges_frozen (n : Nat) (hpulses : v.t2CountsPulses = true) : v.CountedT2 0 (edges reloads n v) := by
  induction n generalizing v with
  | zero => exact .refl v
  | succ n ih =>
    have hkept := countedT2_edgeT1 v
    have hedge := edgeT2_idle reloads (v := v.edgeT1.1) (by simp [hkept.countsPulses, hpulses])
    simp only [edges, clockEdge, hedge]
    exact hkept.trans (ih (hkept.countsPulses.trans hpulses))

end

end Via

/-- Settles O49: V edges count the timer down to 0, and the next one fires. -/
theorem timerOneFiresAfterVPlusOneEdges : Obligations.TimerOneFiresAfterVPlusOneEdges := by
  intro reloads v hactive
  refine ⟨fun n hn => ?_, ?_⟩
  · have h := Via.countedT1_edges reloads hactive hn
    exact ⟨Nat.eq_sub_of_add_eq h.counter, h.flag, h.port⟩
  · intro w e
    have h : v.CountedT1 v.t1c.toNat w := Via.countedT1_edges reloads hactive (Nat.le_refl _)
    have hfires := Via.edgeT1_fires (h.active.trans hactive) h.runOut
    have hkept : w.edgeT1.1.CountedT1 0 e.1 := Via.countedT1_edgeT2 reloads w.edgeT1.1
    have hrequest : e.2 = (w.edgeT1.2 || (w.edgeT1.1.edgeT2 reloads).2) := rfl
    have hflag := hkept.flag
    rw [hrequest, hkept.counter_eq, hkept.active, hkept.port, ← h.enabled, ← h.freeRunning, ← h.latch, ← h.pb7,
      ← h.port]
    rw [hfires] at hflag ⊢
    refine ⟨hflag.trans (w.setFlag_ifr_same (by decide)), fun hier => Bool.or_eq_true_iff.mpr (.inl hier),
      fun hfree => ?_, fun hfree => ?_, rfl⟩ <;> simp [hfree]

/-- Settles O50: as for timer 1; while pulses are counted no edge moves the timer. -/
theorem timerTwoFiresAfterVPlusOneEdges : Obligations.TimerTwoFiresAfterVPlusOneEdges := by
  intro reloads v hactive
  refine ⟨fun hclock => ⟨fun n hn => ?_, ?_⟩, fun hpulses n => ?_⟩
  · have h := Via.countedT2_edges reloads hactive hclock hn
    exact ⟨Nat.eq_sub_of_add_eq h.counter, h.flag⟩
  · intro w e
    have h := (Via.countedT2_edges reloads hactive hclock (Nat.le_refl _)).trans (Via.countedT2_edgeT1 w)
    rw [Nat.zero_add] at h
    have hfires := Via.edgeT2_fires reloads (by simp [h.active, h.countsPulses, hactive, hclock]) h.runOut
    have hvia : e.1 = (w.edgeT1.1.edgeT2 reloads).1 := rfl
    have hrequest : e.2 = (w.edgeT1.2 || (w.edgeT1.1.edgeT2 reloads).2) := rfl
    rw [hvia, hrequest, hfires, ← h.enabled, ← h.latch]
    refine ⟨Via.setFlag_ifr_same _ (by decide), fun hier => Bool.or_eq_true_iff.mpr (.inr hier), fun hr => ?_,
      fun hr => ?_⟩ <;> simp [hr]
  · have h := Via.countedT2_edges_frozen reloads n hpulses
    exact ⟨h.counter_eq, h.active.trans hactive⟩

end Sys2Proof.Machine
end

section
/-! The VIA's registers (R459 to R474): what their halves and bits are in arithmetic, which flags an access
acknowledges, and what reads back. -/

namespace Sys2Proof.Machine

/-! ## Timer registers (R464 to R468) -/

theorem join_lo_eq_ofNat (x : Byte) (w : Addr) : join x (lo w) = BitVec.ofNat 16 (x.toNat * 256 + w.toNat % 256) := by
  apply BitVec.eq_of_toNat_eq
  rw [join_toNat, lo_toNat, BitVec.toNat_ofNat]
  omega

theorem join_hi_eq_ofNat (w : Addr) (x : Byte) : join (hi w) x = BitVec.ofNat 16 (w.toNat / 256 * 256 + x.toNat) := by
  apply BitVec.eq_of_toNat_eq
  rw [join_toNat, hi_toNat, BitVec.toNat_ofNat]
  omega

theorem lo_eq_ofNat (w : Addr) : lo w = BitVec.ofNat 8 (w.toNat % 256) :=
  BitVec.eq_of_toNat_eq (by rw [lo_toNat, BitVec.toNat_ofNat]; omega)

theorem hi_eq_ofNat (w : Addr) : hi w = BitVec.ofNat 8 (w.toNat / 256) :=
  BitVec.eq_of_toNat_eq (by rw [hi_toNat, BitVec.toNat_ofNat]; omega)

/-- A read that acknowledges a timer clears its flag alone, and none while latching is enabled (R464, R467). -/
theorem Via.ackTimer_eq (v : Via) {m : Nat} (hm : m < 7) : ∃ flags,
    (if v.latchingEnabled then v else v.clearFlag m) = { v with ifr := flags } ∧
    ∀ n, flags.getLsbD n = (v.ifr.getLsbD n && (n != m || v.latchingEnabled)) := by
  by_cases h : v.latchingEnabled = true
  · exact ⟨v.ifr, if_pos h, fun n => by simp [h]⟩
  · exact ⟨(v.clearFlag m).ifr, if_neg h, fun n => by simp [h, v.clearFlag_ifr m n hm]⟩

/-- Settles O52: register by register. -/
theorem viaTimerRegistersLoadAndAcknowledge : Obligations.ViaTimerRegistersLoadAndAcknowledge := by
  intro v x withHigh withLow
  have hhigh : ∀ w, join x (lo w) = withHigh w := join_lo_eq_ofNat x
  have hlow : ∀ w, join (hi w) x = withLow w := fun w => join_hi_eq_ofNat w x
  obtain ⟨flagsT1, hackT1, hflagsT1⟩ := v.ackTimer_eq (m := ifrT1) (by decide)
  obtain ⟨flagsT2, hackT2, hflagsT2⟩ := v.ackTimer_eq (m := ifrT2) (by decide)
  simp only [← hhigh, ← hlow, ← lo_eq_ofNat, ← hi_eq_ofNat]
  exact ⟨⟨_, rfl, fun n => v.clearFlag_ifr ifrT1 n (by decide)⟩,
    ⟨_, rfl, fun n => v.clearFlag_ifr ifrT2 n (by decide)⟩,
    rfl, rfl, rfl, rfl, ⟨flagsT1, congrArg _ hackT1, hflagsT1⟩, ⟨flagsT2, congrArg _ hackT2, hflagsT2⟩,
    rfl, rfl, rfl, rfl⟩

/-! ## SR, PCR, ACR, IFR and IER (R469 to R474) -/

theorem bit_toNat (v : Byte) (n : Nat) : (bit v n).toNat = v.toNat / 2 ^ n % 2 := by
  rw [bit, BitVec.getLsbD, Nat.toNat_testBit]

theorem bit_eq_true_iff (v : Byte) (n : Nat) : bit v n = true ↔ v.toNat / 2 ^ n % 2 = 1 := by
  rw [← bit_toNat, Bool.toNat_eq_one]

theorem bit_one_or_bit_zero (v : Byte) : (bit v 1 || bit v 0) = decide (v.toNat % 4 ≠ 0) := by
  rw [Bool.eq_iff_iff, Bool.or_eq_true, bit_eq_true_iff, bit_eq_true_iff, decide_eq_true_eq]
  omega

/-- ACR reads the three bits that it stores and the latch bit twice (R470, R471). -/
theorem Via.acr_setAcr_toNat (v : Via) (x : Byte) :
    (v.setAcr x).acr.toNat = x.toNat / 32 * 32 + (if x.toNat % 4 = 0 then 0 else 3) := by
  have hlatch : (decide (x.toNat % 4 ≠ 0)).toNat = if x.toNat % 4 = 0 then 0 else 1 := by split <;> simp [*]
  simp only [Via.acr, Via.setAcr, BitVec.toNat_ofNat, bit_one_or_bit_zero, hlatch, bit_toNat]
  split <;> omega

/-- A bit below the top of a byte put together from its top bit and seven others. -/
theorem bit_append (b : BitVec 1) (w : BitVec 7) {n : Nat} (hn : n < 7) : bit (b ++ w) n = w.getLsbD n := by
  rw [bit, BitVec.getLsbD_append, if_pos hn]

theorem bit_append_seven (b : BitVec 1) (w : BitVec 7) : bit (b ++ w) 7 = b.getLsbD 0 := by
  rw [bit, BitVec.getLsbD_append, if_neg (Nat.lt_irrefl 7)]

theorem ne_zero_iff_exists_getLsbD {k : Nat} {w : BitVec k} :
    w ≠ 0 ↔ ∃ m, m < k ∧ w.getLsbD m = true := by
  constructor
  · intro h
    by_contra hnone
    refine h (BitVec.eq_of_getLsbD_eq fun m hm => ?_)
    simpa using fun hset => hnone ⟨m, hm, hset⟩
  · rintro ⟨m, -, hset⟩ rfl
    simp at hset

/-- IFR reads 1 in bit 7 exactly when a flag that is enabled is set (R472). -/
theorem Via.bit_ifrByte_seven (v : Via) :
    bit v.ifrByte 7 = true ↔ ∃ m, m < 7 ∧ v.ifr.getLsbD m = true ∧ v.ier.getLsbD m = true := by
  rw [ifrByte, bit_append_seven, BitVec.getLsbD_ofBool, decide_eq_true rfl, Bool.true_and, bne_iff_ne,
    ne_zero_iff_exists_getLsbD]
  simp only [BitVec.getLsbD_and, Bool.and_eq_true]

/-- The bits that a byte names in a 7-bit register. -/
theorem getLsbD_setWidth_seven (x : Byte) {n : Nat} (hn : n < 7) : (x.setWidth 7).getLsbD n = bit x n := by
  simp [bit, hn]

theorem getLsbD_and_not {k n : Nat} (w m : BitVec k) (hn : n < k) :
    (w &&& ~~~m).getLsbD n = (w.getLsbD n && !m.getLsbD n) := by
  simp [hn]

theorem Via.setIer_eq (v : Via) (x : Byte) : v.setIer x = { v with
    ier := if 128 ≤ x.toNat then v.ier ||| x.setWidth 7 else v.ier &&& ~~~(x.setWidth 7) } := by
  rw [setIer, bit_seven]
  by_cases h : 128 ≤ x.toNat <;> simp [h]

/-- Settles O53: ACR by arithmetic, IFR and IER bit by bit under their derived top bits. -/
theorem acrIfrIerReadBack : Obligations.AcrIfrIerReadBack := by
  intro v x
  have hifr : v.write 13 x = { v with ifr := v.ifr &&& ~~~(x.setWidth 7) } := rfl
  have hier : v.write 14 x = _ := v.setIer_eq x
  refine ⟨⟨rfl, rfl, rfl, rfl⟩, fun r hr => ?_, rfl, by rw [hier], fun n hn =>
    ⟨v.acr_setAcr_toNat x, v.bit_ifrByte_seven, bit_append _ _ hn, ?_, ?_, bit_append_seven _ _⟩⟩
  · simp only [List.mem_cons, List.not_mem_nil, or_false] at hr
    obtain rfl | rfl | rfl | rfl | rfl := hr <;> rfl
  · refine (bit_append _ _ hn).trans ?_
    rw [hifr, getLsbD_and_not _ _ hn, getLsbD_setWidth_seven x hn]
  · refine (bit_append _ _ hn).trans ?_
    rw [hier]
    split
    · rw [BitVec.getLsbD_or, getLsbD_setWidth_seven x hn]
    · rw [getLsbD_and_not _ _ hn, getLsbD_setWidth_seven x hn]

/-! ## The ports (R459 to R463) -/

theorem extractLsb'_five_three (p : Byte) : p.extractLsb' 5 3 = 0b101#3 ↔ p.toNat / 32 = 5 := by
  rw [← BitVec.toNat_inj, BitVec.extractLsb'_toNat, Nat.shiftRight_eq_div_pow, BitVec.toNat_ofNat]
  omega

theorem extractLsb'_one_three (p : Byte) : p.extractLsb' 1 3 = 0b101#3 ↔ p.toNat / 2 % 8 = 5 := by
  rw [← BitVec.toNat_inj, BitVec.extractLsb'_toNat, Nat.shiftRight_eq_div_pow, BitVec.toNat_ofNat]

/-- A port read gives the stored bits of the inputs (R459). -/
theorem bit_and_not (port ddr : Byte) (n : Nat) :
    bit (port &&& ~~~ddr) n = (bit port n && !bit ddr n && decide (n < 8)) := by
  simp only [bit, BitVec.getLsbD_and, BitVec.getLsbD_not]
  cases decide (n < 8) <;> cases port.getLsbD n <;> cases ddr.getLsbD n <;> rfl

/-- Acknowledging changes IFR alone. -/
theorem Via.ackB_eq (v : Via) : v.ackB = { v with ifr := v.ackB.ifr } := by
  unfold ackB
  split <;> rfl

theorem Via.ackA_eq (v : Via) : v.ackA = { v with ifr := v.ackA.ifr } := by
  unfold ackA
  split <;> rfl

/-- A port write stores the byte and acknowledges what a read does. -/
theorem Via.write_zero (v : Via) (x : Byte) : v.write 0 x = { v with iorb := x, ifr := v.ackB.ifr } := by
  rw [write, ackB, ackB]
  split <;> rfl

theorem Via.write_one (v : Via) (x : Byte) : v.write 1 x = { v with iora := x, ifr := v.ackA.ifr } := by
  rw [write, ackA, ackA]
  split <;> rfl

/-- What an access of port B acknowledges: CB1, and CB2 unless the field is the pulse code (R460). -/
theorem Via.ackB_ifr (v : Via) (n : Nat) : v.ackB.ifr.getLsbD n =
    (v.ifr.getLsbD n && n != ifrCb1 && (n != ifrCb2 || decide (v.pcr.toNat / 32 = 5))) := by
  simp only [ackB, extractLsb'_five_three]
  split
  · simp [v.clearFlag_ifr ifrCb1 n (by decide), *]
  · simp [clearFlag_ifr _ ifrCb2 n (by decide), v.clearFlag_ifr ifrCb1 n (by decide), *]

/-- What an access of port A acknowledges: CA1, and CA2 unless the field is the pulse code (R461). -/
theorem Via.ackA_ifr (v : Via) (n : Nat) : v.ackA.ifr.getLsbD n =
    (v.ifr.getLsbD n && n != ifrCa1 && (n != ifrCa2 || decide (v.pcr.toNat / 2 % 8 = 5))) := by
  simp only [ackA, extractLsb'_one_three]
  split
  · simp [v.clearFlag_ifr ifrCa1 n (by decide), *]
  · simp [clearFlag_ifr _ ifrCa2 n (by decide), v.clearFlag_ifr ifrCa1 n (by decide), *]

/-- Settles O54: a read and a write of a port acknowledge the same flags, which depend on IFR and PCR alone. -/
theorem portReadsMaskAndAcknowledge : Obligations.PortReadsMaskAndAcknowledge := by
  intro v x
  refine ⟨⟨v.ackB.ifr, congrArg _ v.ackB_eq, v.write_zero x, fun n => ⟨bit_and_not _ _ n, v.ackB_ifr n⟩⟩,
    ⟨v.ackA.ifr, congrArg _ v.ackA_eq, v.write_one x, fun n => ⟨bit_and_not _ _ n, v.ackA_ifr n⟩⟩,
    rfl, rfl, rfl, rfl, rfl, rfl⟩

end Sys2Proof.Machine
end

section
/-! The ACIA (R504 to R521): its registers, which writes it rejects, and what receiving a byte does. -/

namespace Sys2Proof.Machine

open Sys2Proof.Claims

/-- The status byte is the sum of its bits (R510). -/
theorem Acia.status_toNat (d : Acia) : d.status.toNat = num d.irqFlag * 128 + (1 - num d.dsrAsserted) * 64 +
    num d.dcdAsserted * 32 + 16 + num d.rxFull * 8 + num d.overrun * 4 := by
  have hirq := num_le_one d.irqFlag
  have hdcd := num_le_one d.dcdAsserted
  have hfull := num_le_one d.rxFull
  have hover := num_le_one d.overrun
  simp only [Acia.status, toNat_eq_num, BitVec.toNat_ofNat]
  omega

/-- Settles O55: the status byte is arithmetic, and each access is a case of the definitions. -/
theorem aciaStatusAndData : Obligations.AciaStatusAndData :=
  fun d _ => ⟨d.status_toNat, rfl, rfl, rfl, rfl, rfl, rfl⟩

/-! ## Command and control (R505, R508, R509, R511, R516) -/

/-- The baud rate of every code that is not rejected (R511). -/
theorem baudTable_getD : ∀ c < 16, c ≠ 0 → (c, baudTable.getD c 0) ∈
    [(1, 50), (2, 75), (3, 110), (4, 135), (5, 150), (6, 300), (7, 600), (8, 1200), (9, 1800), (10, 2400), (11, 3600),
      (12, 4800), (13, 7200), (14, 9600), (15, 19200)] := by decide

theorem portConfig_dataBits (v : Byte) : (portConfig v).dataBits + v.toNat / 32 % 4 = 8 := by
  show 8 - v.toNat / 32 % 4 + v.toNat / 32 % 4 = 8
  omega

theorem portConfig_stopBits (v : Byte) : (portConfig v).stopBits =
    if v.toNat < 128 then .one else if (portConfig v).dataBits = 5 then .onePointFive else .two := by
  simp only [portConfig, bit_seven, decide_eq_true_eq]
  by_cases h : v.toNat < 128
  · rw [if_neg (by omega), if_pos h]
  · rw [if_pos (by omega), if_neg h]

/-- Settles O56: a write of the register is rejected or stored as its bit or code says, and the bus write follows. -/
theorem aciaRejectsParityAndExternalClock : Obligations.AciaRejectsParityAndExternalClock := by
  intro s a x
  refine ⟨fun ht => ⟨fun h => busWrite_acia_error ht (if_pos h),
      fun h => busWrite_acia_ok ht (by simp [Acia.write, h])⟩,
    fun ht => ⟨fun h => busWrite_acia_error ht (if_pos h), fun h => ⟨portConfig x, busWrite_acia_ok ht (if_neg h),
      portConfig_dataBits x, rfl, portConfig_stopBits x, baudTable_getD _ (Nat.mod_lt _ (by decide)) h⟩⟩⟩

/-! ## Receiving (R520, R521) -/

/-- The new byte is kept unless one is unread; the request is made unless bit 1 of the command forbids it (R520). -/
theorem Acia.receive_eq (d : Acia) (b : Byte) : d.receive b = ({ d with
    rxd := if d.rxFull then d.rxd else b
    overrun := d.overrun || d.rxFull
    rxFull := true
    irqFlag := d.irqFlag || !bit d.cmd 1 }, !bit d.cmd 1) := by
  cases hfull : d.rxFull <;> cases hirq : bit d.cmd 1 <;> simp [receive, hfull, hirq]

theorem hostAciaReceive_eq (s : State) (b : Byte) : hostAciaReceive s b = { s with
    acia := (s.acia.receive b).1
    pendingIrq := s.pendingIrq || (s.acia.receive b).2 } := by
  unfold hostAciaReceive
  cases h : (s.acia.receive b).2 <;> simp [h, State.setAcia, State.setPendingIrq]

/-- Settles O57: each clause is the field of `Acia.receive_eq` under its premise. -/
theorem aciaReceiveBuffersOneByte : Obligations.AciaReceiveBuffersOneByte := by
  intro s b dsr dcd
  rw [hostAciaReceive_eq, Acia.receive_eq]
  refine ⟨⟨fun hfull => ?_, fun hfull => ?_, fun hirq => ?_, fun hirq => ?_⟩, rfl⟩
  · simp [hfull]
  · simp [hfull]
  · simp [hirq]
  · simp [hirq]

end Sys2Proof.Machine
end

section
/-! Reset without a readable vector, and construction (R5, R409, R540, R543). -/

namespace Sys2Proof.Machine

/-- If the vector's first byte cannot be read, its fault is latched over what reset has assigned (R543). -/
theorem resetMachine_of_readFault {s : State} {f : Fault}
    (h : readNoCycle vecReset s.clearAll = .error f s.clearAll) : resetMachine s = s.clearAll.latch f := by
  simp only [resetMachine, loadResetVector, bind_apply, h]

/-- Power-on with the default configuration finds the vector 0x0000 in the empty ROM (R541, R546). -/
theorem resetMachine_powerOn_default : resetMachine (State.powerOn Cfg.default) = State.reset :=
  resetMachine_memByte (l := 0x00) (h := 0x00) rfl rfl

/-- Settles O59: the vector's read is the fault of its region; construction tests the configuration first. -/
theorem resetWithoutVectorAndConstruction : Obligations.ResetWithoutVectorAndConstruction := by
  refine ⟨fun s => ⟨fun ht => resetMachine_of_readFault ?_, fun ht hstrict => resetMachine_of_readFault ?_⟩,
    fun _ => rfl, fun c h => ?_, fun c h => if_pos h, ?_⟩
  · have ht' : target s.clearAll.cfg vecReset = .hole := ht
    simp only [readNoCycle, dispatchRead, ht']
    rfl
  · have ht' : target s.clearAll.cfg vecReset = .fallback := ht
    have hstrict' : s.clearAll.cfg.strictUnmapped = true := hstrict
    simp only [readNoCycle, dispatchRead, ht', hstrict', if_true]
    rfl
  · exact if_neg (by simp [h])
  · rw [construct, if_pos (by decide), resetMachine_powerOn_default]

end Sys2Proof.Machine
end

section
/-! The cycles of every instruction (R188, R560): each operation spends a number of cycles between two bounds, those of
an instruction add up from its parts, and they lie inside its cell of the table. -/

namespace Sys2Proof.Machine

variable {α β : Type}

/-- Whenever `x` ends with a value, at least `least` and at most `most` cycles have passed, on one configuration. -/
def Spends (x : Exec α) (least most : Nat) : Prop := ∀ s a t, x s = .ok a t →
  t.cfg = s.cfg ∧ ∃ n, least ≤ n ∧ n ≤ most ∧ t.cycles = (s.ticks n).cycles

namespace Spends

variable {x : Exec α} {f : α → Exec β} {l l' m m' : Nat}

/-! ## Sequencing -/

/-- Exactly one cycle, where both ends of `x` say so. -/
theorem one (hcfg : ∀ s, (endState (x s)).cfg = s.cfg)
    (hcycles : ∀ s, (endState (x s)).cycles = nextCycle s.cfg s.cycles) : Spends x 1 1 := fun s a t e =>
  ⟨by simpa [e] using hcfg s, 1, Nat.le_refl 1, Nat.le_refl 1, by simpa [e, State.ticks] using hcycles s⟩

theorem pure (a : α) : Spends (Pure.pure a) 0 0 := by
  rintro s _ _ ⟨⟩
  exact ⟨rfl, 0, Nat.le_refl 0, Nat.le_refl 0, rfl⟩

/-- A fault is no end with a value. -/
theorem raise (e : Fault) : Spends (Machine.raise e : Exec α) l m := fun _ _ _ h => nomatch h

theorem update {g : State → State} (hcfg : ∀ s, (g s).cfg = s.cfg := by exact fun _ => rfl)
    (hcycles : ∀ s, (g s).cycles = s.cycles := by exact fun _ => rfl) : Spends (Machine.update g) 0 0 := by
  rintro s _ _ ⟨⟩
  exact ⟨hcfg s, 0, Nat.le_refl 0, Nat.le_refl 0, hcycles s⟩

theorem mono (h : Spends x l m) (hl : l' ≤ l) (hm : m ≤ m') : Spends x l' m' := fun s a t e =>
  let ⟨hcfg, n, hln, hnm, hn⟩ := h s a t e
  ⟨hcfg, n, Nat.le_trans hl hln, Nat.le_trans hnm hm, hn⟩

theorem bind (hx : Spends x l m) (hf : ∀ a, Spends (f a) l' m') : Spends (x >>= f) (l + l') (m + m') := by
  intro s b u e
  rw [bind_apply] at e
  cases hxs : x s with
  | error g t => rw [hxs] at e; cases e
  | ok a t =>
    rw [hxs] at e
    obtain ⟨hct, n, hln, hnm, hn⟩ := hx s a t hxs
    obtain ⟨hcu, k, hlk, hkm, hk⟩ := hf a t b u e
    have hcfg : t.cfg = (s.ticks n).cfg := hct.trans (State.cfg_of_still (s.ticks_still n)).symm
    exact ⟨hcu.trans hct, n + k, Nat.add_le_add hln hlk, Nat.add_le_add hnm hkm,
      by rw [hk, State.ticks_cycles_congr k hcfg hn, State.ticks_ticks]⟩

/-- Looking at the state costs nothing. -/
theorem lookBind {γ : Type} {g : State → γ} {f : γ → Exec β} (h : ∀ a, Spends (f a) l m) :
    Spends (look g >>= f) l m :=
  fun s b t e => h (g s) s b t (by rwa [bind_apply, look_apply] at e)

theorem ite {c : Prop} {_ : Decidable c} {y : Exec α} (hx : Spends x l m) (hy : Spends y l m) :
    Spends (if c then x else y) l m := by
  split <;> assumption

/-! ## The bus -/

theorem internal : Spends Machine.internal 1 1 := one State.tick_cfg State.tick_cycles

/-- A cycle that may be spent. -/
theorem optional (c : Bool) : Spends (if c then Machine.internal else Pure.pure ()) c.toNat c.toNat := by
  cases c
  · exact pure ()
  · exact internal

theorem busRead (a : Addr) : Spends (Machine.busRead a) 1 1 :=
  one (fun s => State.cfg_of_still (busRead_still a s)) (busRead_cycles a)

theorem busWrite (a : Addr) (v : Byte) : Spends (Machine.busWrite a v) 1 1 :=
  one (busWrite_cfg a v) (busWrite_cycles a v)

theorem fetch : Spends Machine.fetch 1 1 :=
  lookBind fun _ => (busRead _).bind fun _ => (update).bind fun _ => pure _

theorem operandByte (b : Byte) : Spends (Machine.operandByte b) 1 1 := fetch.bind fun _ => pure b

theorem operandAddr (a : Addr) : Spends (Machine.operandAddr a) 2 2 := fetch.bind fun _ => fetch.bind fun _ => pure a

theorem push (v : Byte) : Spends (Machine.push v) 1 1 :=
  lookBind fun _ => (busWrite _ v).bind fun _ => update

theorem pull : Spends Machine.pull 1 1 :=
  (update).bind fun _ => lookBind fun _ => busRead _

/-- The two bytes of a word, and something that costs nothing done with them. -/
theorem readWord (a b : Addr) {g : Byte → Byte → Exec α} (hg : ∀ l h, Spends (g l h) 0 0) :
    Spends (do
      let l ← Machine.busRead a
      let h ← Machine.busRead b
      g l h) 2 2 := (busRead a).bind fun _ => (busRead b).bind fun _ => hg _ _

theorem readPointer (p : Byte) : Spends (Machine.readPointer p) 2 2 := readWord _ _ fun _ _ => pure _

theorem loadVector (vec : Addr) : Spends (Machine.loadVector vec) 2 2 := readWord _ _ fun _ _ => update

theorem jumpThrough (p : Addr) : Spends (Machine.jumpThrough p) 2 2 := readWord _ _ fun _ _ => update

end Spends

theorem State.putDecimal_cfg (s : State) (v : Byte) (r : Sum) : (s.putDecimal v r).cfg = s.cfg := by
  unfold putDecimal
  split <;> rfl

theorem State.putDecimal_cycles (s : State) (v : Byte) (r : Sum) : (s.putDecimal v r).cycles = s.cycles := by
  unfold putDecimal
  split <;> rfl

/-! ## Operands (R173 to R187) -/

/-- The cycles of forming an effective address without crossing a page. -/
def leastAddressCycles (k : AccessKind) : Mem → Nat
  | .zp _ => 1
  | .zpx _ | .zpy _ | .abs _ => 2
  | .abx _ | .aby _ => 2 + k.alwaysIndexes.toNat
  | .izx _ => 4
  | .izy _ => 3 + k.alwaysIndexes.toNat
  | .izp _ => 3

/-- The cycles that crossing a page adds. -/
def pageCycles (k : AccessKind) : Mem → Nat
  | .abx _ | .aby _ | .izy _ => (!k.alwaysIndexes).toNat
  | .zp _ | .zpx _ | .zpy _ | .abs _ | .izx _ | .izp _ => 0

/-- The cycles of reading an operand (R186). -/
def leastReadCycles : ReadOp → Nat
  | .imm _ => 1
  | .mem m => leastAddressCycles .read m + 1

/-- The cycles that crossing a page adds to reading an operand. -/
def readPageCycles : ReadOp → Nat
  | .imm _ => 0
  | .mem m => pageCycles .read m

/-- The cycles of modifying an operand (R187). -/
def leastModifyCycles (k : AccessKind) : RmwOp → Nat
  | .acc => 1
  | .mem m => leastAddressCycles k m + 3

/-- The cycles that crossing a page adds to modifying an operand. -/
def modifyPageCycles (k : AccessKind) : RmwOp → Nat
  | .acc => 0
  | .mem m => pageCycles k m

namespace Spends

/-- An index costs a cycle, always or at most (R176, R178). -/
theorem indexed (k : AccessKind) (b : Addr) (i : Byte) : Spends (Machine.indexed k b i) k.alwaysIndexes.toNat 1 :=
  ((optional (k.alwaysIndexes || crossed b (b + i.setWidth 16))).mono
    (by cases k.alwaysIndexes <;> simp) (Bool.toNat_le _)).bind fun _ => pure _

theorem effectiveAddress (k : AccessKind) (m : Mem) : Spends (Machine.effectiveAddress k m) (leastAddressCycles k m)
    (pageCycles k m + leastAddressCycles k m) := by
  have hindex : (!k.alwaysIndexes).toNat + k.alwaysIndexes.toNat = 1 := by cases k.alwaysIndexes <;> rfl
  cases m with
  | zp z => exact (operandByte z).bind fun _ => pure _
  | zpx z | zpy z => exact (operandByte z).bind fun _ => internal.bind fun _ => lookBind fun _ => pure _
  | abs a => exact operandAddr a
  | abx b | aby b =>
    rw [leastAddressCycles, pageCycles, Nat.add_left_comm, hindex]
    exact (operandAddr b).bind fun _ => lookBind fun _ => indexed k _ _
  | izx z => exact (operandByte z).bind fun _ => internal.bind fun _ => lookBind fun _ => readPointer _
  | izy z =>
    rw [leastAddressCycles, pageCycles, Nat.add_left_comm, hindex, show 3 = 1 + 2 from rfl, Nat.add_assoc,
      Nat.add_assoc]
    exact (operandByte z).bind fun _ => (readPointer _).bind fun _ => lookBind fun _ => indexed k _ _
  | izp z => exact (operandByte z).bind fun _ => readPointer _

theorem readOperand (o : ReadOp) : Spends (Machine.readOperand o) (leastReadCycles o)
    (readPageCycles o + leastReadCycles o) := by
  cases o with
  | imm v => exact operandByte v
  | mem m => exact (effectiveAddress .read m).bind busRead

theorem writeOperand (m : Mem) (value : State → Byte) : Spends (Machine.writeOperand m value)
    (leastAddressCycles .write m + 1) (pageCycles .write m + leastAddressCycles .write m + 1) :=
  (effectiveAddress .write m).bind fun _ => lookBind fun _ => busWrite _ _

theorem applyModification (f : Modification) (v : Byte) : Spends (Machine.applyModification f v) 0 0 :=
  lookBind fun _ => (update).bind fun _ => pure _

theorem modifyMem (k : AccessKind) (m : Mem) (f : Modification) : Spends (Machine.modifyMem k m f)
    (leastAddressCycles k m + 3) (pageCycles k m + leastAddressCycles k m + 3) :=
  (effectiveAddress k m).bind fun _ => (busRead _).bind fun _ => internal.bind fun _ =>
    (applyModification f _).bind fun _ => busWrite _ _

theorem modifyOperand (k : AccessKind) (o : RmwOp) (f : Modification) : Spends (Machine.modifyOperand k o f)
    (leastModifyCycles k o) (modifyPageCycles k o + leastModifyCycles k o) := by
  cases o with
  | acc => exact internal.bind fun _ => lookBind fun _ => (applyModification f _).bind fun _ => update
  | mem m => exact modifyMem k m f

/-! ## The shared operations of the instructions -/

/-- Reading an operand and then changing the CPU: loads, logic, compares and BIT. -/
theorem readThenUpdate {o : ReadOp} {g : Byte → State → State}
    (hcfg : ∀ v s, (g v s).cfg = s.cfg := by exact fun _ _ => rfl)
    (hcycles : ∀ v s, (g v s).cycles = s.cycles := by exact fun _ _ => rfl) :
    Spends (do
      let v ← Machine.readOperand o
      Machine.update (g v)) (leastReadCycles o) (readPageCycles o + leastReadCycles o) :=
  (readOperand o).bind fun v => update (hcfg v) (hcycles v)

/-- Decimal mode is one cycle more (R243, R244). -/
theorem addSub (o : ReadOp) (binary decimal : Byte → Byte → Bool → Sum) : Spends (Machine.addSub o binary decimal)
    (leastReadCycles o) (readPageCycles o + 1 + leastReadCycles o) := by
  rw [Nat.add_right_comm]
  refine (readOperand o).bind fun v => lookBind fun _ => ite (l := 0) (m := 1) ?_ ?_
  · exact (internal.bind fun _ => update (fun s => s.putDecimal_cfg v _) fun s => s.putDecimal_cycles v _).mono
      (Nat.zero_le 1) (Nat.le_refl 1)
  · exact (update).mono (Nat.le_refl 0) (Nat.zero_le 1)

theorem branchTaken (d : Byte) : Spends (branch true d) 2 3 := by
  refine (operandByte d).bind fun _ => internal.bind fun _ => lookBind fun _ => ite (l := 0) (m := 1) ?_ ?_
  · exact (internal.bind fun _ => update).mono (Nat.zero_le 1) (Nat.le_refl 1)
  · exact (update).mono (Nat.le_refl 0) (Nat.zero_le 1)

/-- A branch costs a cycle when it is taken and one for a crossed page (R320). -/
theorem branch (c : Bool) (d : Byte) : Spends (Machine.branch c d) 1 3 := by
  cases c with
  | false => exact ((operandByte d).bind fun _ => pure ()).mono (Nat.le_refl 1) (by decide)
  | true => exact (branchTaken d).mono (by decide) (Nat.le_refl 3)

theorem branchOn (cond : State → Bool) (d : Byte) : Spends (Machine.branchOn cond d) 1 3 :=
  lookBind fun c => branch c d

theorem branchOnBit (n : Nat) (b : Bool) (z d : Byte) : Spends (Machine.branchOnBit n b z d) 4 6 :=
  (operandByte z).bind fun _ => (busRead _).bind fun _ => internal.bind fun _ => branch _ d

theorem takeException (b : Bool) (vec : Addr) : Spends (Machine.takeException b vec) 5 5 :=
  lookBind fun _ => (push _).bind fun _ => (push _).bind fun _ => lookBind fun _ => (push _).bind fun _ =>
    (update).bind fun _ => loadVector vec

theorem softwareInterrupt (pad : Byte) : Spends (Machine.softwareInterrupt pad) 6 6 := by
  refine lookBind fun mode => ?_
  cases mode with
  | fatal => exact lookBind fun _ => raise _
  | architectural => exact (operandByte pad).bind fun _ => takeException true vecIrq

theorem returnFromInterrupt : Spends Machine.returnFromInterrupt 5 5 :=
  internal.bind fun _ => internal.bind fun _ => pull.bind fun _ => (update).bind fun _ => pull.bind fun _ =>
    pull.bind fun _ => update

theorem returnSubroutine : Spends Machine.returnSubroutine 5 5 :=
  internal.bind fun _ => internal.bind fun _ => pull.bind fun _ => pull.bind fun _ => internal.bind fun _ => update

theorem jumpSubroutine (t : Addr) : Spends (Machine.jumpSubroutine t) 5 5 :=
  (operandAddr t).bind fun _ => internal.bind fun _ => lookBind fun _ => (push _).bind fun _ =>
    (push _).bind fun _ => update

theorem pushInstr (value : State → Byte) : Spends (Machine.pushInstr value) 2 2 :=
  internal.bind fun _ => lookBind fun _ => push _

theorem pullInstr {put : State → Byte → State} (hcfg : ∀ s v, (put s v).cfg = s.cfg := by exact fun _ _ => rfl)
    (hcycles : ∀ s v, (put s v).cycles = s.cycles := by exact fun _ _ => rfl) : Spends (Machine.pullInstr put) 3 3 :=
  internal.bind fun _ => internal.bind fun _ => pull.bind fun v => update (hcfg · v) (hcycles · v)

/-- An internal cycle and then a change of the CPU: transfers, register steps and flag instructions. -/
theorem internalThenUpdate {g : State → State} (hcfg : ∀ s, (g s).cfg = s.cfg := by exact fun _ => rfl)
    (hcycles : ∀ s, (g s).cycles = s.cycles := by exact fun _ => rfl) :
    Spends (do
      Machine.internal
      Machine.update g) 1 1 := internal.bind fun _ => update hcfg hcycles

theorem enterMode (mode : Mode) : Spends (Machine.enterMode mode) 2 2 :=
  internal.bind fun _ => internal.bind fun _ => update

end Spends

/-! ## Every instruction -/

/-- The cycles of an instruction after its opcode fetch, with no page crossed, no branch taken and no decimal mode. -/
def leastCycles : Instr → Nat
  | .lda o | .ldx o | .ldy o | .adc o | .sbc o | .and o | .ora o | .eor o | .cmp o | .cpx o | .cpy o | .bit o =>
    leastReadCycles o
  | .sta m | .stx m | .sty m | .stz m => leastAddressCycles .write m + 1
  | .asl o | .lsr o | .rol o | .ror o => leastModifyCycles .shift o
  | .inc o | .dec o => leastModifyCycles .incDec o
  | .tsb m | .trb m => leastAddressCycles .shift m + 3
  | .rmb0 _ | .rmb1 _ | .rmb2 _ | .rmb3 _ | .rmb4 _ | .rmb5 _ | .rmb6 _ | .rmb7 _ => 4
  | .smb0 _ | .smb1 _ | .smb2 _ | .smb3 _ | .smb4 _ | .smb5 _ | .smb6 _ | .smb7 _ => 4
  | .bbr0 _ _ | .bbr1 _ _ | .bbr2 _ _ | .bbr3 _ _ | .bbr4 _ _ | .bbr5 _ _ | .bbr6 _ _ | .bbr7 _ _ => 4
  | .bbs0 _ _ | .bbs1 _ _ | .bbs2 _ _ | .bbs3 _ _ | .bbs4 _ _ | .bbs5 _ _ | .bbs6 _ _ | .bbs7 _ _ => 4
  | .bcc _ | .bcs _ | .beq _ | .bne _ | .bmi _ | .bpl _ | .bvc _ | .bvs _ => 1
  | .tax | .tay | .txa | .tya | .tsx | .txs | .inx | .iny | .dex | .dey => 1
  | .clc | .sec | .cli | .sei | .cld | .sed | .clv | .nop => 1
  | .bra _ | .jmp (.abs _) | .pha | .php | .phx | .phy | .wai | .stp => 2
  | .pla | .plp | .plx | .ply => 3
  | .jmp _ | .jsr _ | .rts | .rti => 5
  | .brk _ => 6
  | .illegal _ => 0

/-- The cycles that a crossed page, a taken branch and decimal mode add to those. -/
def suffixCycles : Instr → Nat
  | .adc o | .sbc o => readPageCycles o + 1
  | .lda o | .ldx o | .ldy o | .and o | .ora o | .eor o | .cmp o | .cpx o | .cpy o | .bit o => readPageCycles o
  | .sta m | .stx m | .sty m | .stz m => pageCycles .write m
  | .asl o | .lsr o | .rol o | .ror o => modifyPageCycles .shift o
  | .inc o | .dec o => modifyPageCycles .incDec o
  | .tsb m | .trb m => pageCycles .shift m
  | .bbr0 _ _ | .bbr1 _ _ | .bbr2 _ _ | .bbr3 _ _ | .bbr4 _ _ | .bbr5 _ _ | .bbr6 _ _ | .bbr7 _ _ => 2
  | .bbs0 _ _ | .bbs1 _ _ | .bbs2 _ _ | .bbs3 _ _ | .bbs4 _ _ | .bbs5 _ _ | .bbs6 _ _ | .bbs7 _ _ => 2
  | .bcc _ | .bcs _ | .beq _ | .bne _ | .bmi _ | .bpl _ | .bvc _ | .bvs _ => 2
  | .bra _ => 1
  | _ => 0

/-- The meaning of an instruction spends its cycles, if it ends without a fault. -/
theorem exec_spends (i : Instr) : ∃ x : Exec Unit, (∀ s, exec i s = run x s) ∧
    Spends x (leastCycles i) (suffixCycles i + leastCycles i) := by
  cases i with
  | lda o | ldx o | ldy o | and o | ora o | eor o | cmp o | cpx o | cpy o | bit o =>
    exact ⟨_, fun _ => rfl, .readThenUpdate⟩
  | adc o | sbc o => exact ⟨_, fun _ => rfl, .addSub o _ _⟩
  | sta m | stx m | sty m | stz m => exact ⟨_, fun _ => rfl, .writeOperand m _⟩
  | inc o | dec o | asl o | lsr o | rol o | ror o => exact ⟨_, fun _ => rfl, .modifyOperand _ o _⟩
  | tsb m | trb m => exact ⟨_, fun _ => rfl, .modifyMem _ m _⟩
  | rmb0 z | rmb1 z | rmb2 z | rmb3 z | rmb4 z | rmb5 z | rmb6 z | rmb7 z
  | smb0 z | smb1 z | smb2 z | smb3 z | smb4 z | smb5 z | smb6 z | smb7 z =>
    exact ⟨_, fun _ => rfl, .modifyMem .shift (.zp z) _⟩
  | tax => exact ⟨transfer State.a State.setX, fun _ => rfl, .internalThenUpdate⟩
  | tay => exact ⟨transfer State.a State.setY, fun _ => rfl, .internalThenUpdate⟩
  | txa => exact ⟨transfer State.x State.setA, fun _ => rfl, .internalThenUpdate⟩
  | tya => exact ⟨transfer State.y State.setA, fun _ => rfl, .internalThenUpdate⟩
  | tsx => exact ⟨transfer State.sp State.setX, fun _ => rfl, .internalThenUpdate⟩
  | txs =>
    exact ⟨do
      internal
      update fun s => s.setSp s.x, fun _ => rfl, .internalThenUpdate⟩
  | inx => exact ⟨stepRegister State.x State.setX fun v => v + 1, fun _ => rfl, .internalThenUpdate⟩
  | iny => exact ⟨stepRegister State.y State.setY fun v => v + 1, fun _ => rfl, .internalThenUpdate⟩
  | dex => exact ⟨stepRegister State.x State.setX fun v => v - 1, fun _ => rfl, .internalThenUpdate⟩
  | dey => exact ⟨stepRegister State.y State.setY fun v => v - 1, fun _ => rfl, .internalThenUpdate⟩
  | clc => exact ⟨flagInstr fun p => { p with c := false }, fun _ => rfl, .internalThenUpdate⟩
  | sec => exact ⟨flagInstr fun p => { p with c := true }, fun _ => rfl, .internalThenUpdate⟩
  | cli => exact ⟨flagInstr fun p => { p with i := false }, fun _ => rfl, .internalThenUpdate⟩
  | sei => exact ⟨flagInstr fun p => { p with i := true }, fun _ => rfl, .internalThenUpdate⟩
  | cld => exact ⟨flagInstr fun p => { p with d := false }, fun _ => rfl, .internalThenUpdate⟩
  | sed => exact ⟨flagInstr fun p => { p with d := true }, fun _ => rfl, .internalThenUpdate⟩
  | clv => exact ⟨flagInstr fun p => { p with v := false }, fun _ => rfl, .internalThenUpdate⟩
  | nop => exact ⟨_, fun _ => rfl, .internal⟩
  | wai | stp => exact ⟨_, fun _ => rfl, .enterMode _⟩
  | bcc d | bcs d | beq d | bne d | bmi d | bpl d | bvc d | bvs d => exact ⟨_, fun _ => rfl, .branchOn _ d⟩
  | bra d => exact ⟨_, fun _ => rfl, .branchTaken d⟩
  | bbr0 z d | bbr1 z d | bbr2 z d | bbr3 z d | bbr4 z d | bbr5 z d | bbr6 z d | bbr7 z d
  | bbs0 z d | bbs1 z d | bbs2 z d | bbs3 z d | bbs4 z d | bbs5 z d | bbs6 z d | bbs7 z d =>
    exact ⟨_, fun _ => rfl, .branchOnBit _ _ z d⟩
  | jmp o =>
    refine ⟨_, fun _ => rfl, ?_⟩
    cases o with
    | abs t => exact (Spends.operandAddr t).bind fun _ => .update
    | ind p => exact (Spends.operandAddr p).bind fun _ => Spends.internal.bind fun _ => .jumpThrough _
    | iax p =>
      exact (Spends.operandAddr p).bind fun _ => Spends.internal.bind fun _ => .lookBind fun _ => .jumpThrough _
  | jsr t => exact ⟨_, fun _ => rfl, .jumpSubroutine t⟩
  | rts => exact ⟨_, fun _ => rfl, .returnSubroutine⟩
  | rti => exact ⟨_, fun _ => rfl, .returnFromInterrupt⟩
  | brk pad => exact ⟨_, fun _ => rfl, .softwareInterrupt pad⟩
  | pha | php | phx | phy => exact ⟨_, fun _ => rfl, .pushInstr _⟩
  | pla | plp | plx | ply => exact ⟨_, fun _ => rfl, .pullInstr⟩
  | illegal op => exact ⟨_, fun _ => rfl, .lookBind fun _ => .raise _⟩

/-! ## The table (R560) -/

/-- The cycles from `least` to `least + suffix`, with the opcode fetch on top, lie inside the cell. -/
def allows (c : CycleCost) (least suffix : Nat) : Bool :=
  decide (c.base ≤ least + 1) && decide (suffix + least + 1 ≤ c.base + c.extra)

/-- The sixteen cells of a row of the table allow the cycles of the instructions in the row of the matrix. -/
theorem row_allows (l h : Byte) {r : Nat} (hr : r < 16) :
    ((List.range 16).map fun k =>
      let op := BitVec.ofNat 8 (16 * r + k)
      let i := (matrixCell op).instr op l h
      allows (cycleCost op) (leastCycles i) (suffixCycles i)) = (List.range 16).map fun _ => true := by
  match r with
  | 0 | 1 | 2 | 3 | 4 | 5 | 6 | 7 | 8 | 9 | 10 | 11 | 12 | 13 | 14 | 15 => rfl
  | n + 16 => omega

theorem cycleCost_allows (op l h : Byte) : allows (cycleCost op) (leastCycles ((matrixCell op).instr op l h))
    (suffixCycles ((matrixCell op).instr op l h)) = true :=
  eq_of_rows (f := fun op => allows (cycleCost op) (leastCycles ((matrixCell op).instr op l h))
    (suffixCycles ((matrixCell op).instr op l h))) (g := fun _ => true) (fun _ => row_allows l h) op

/-- The cell of an instruction is that of the opcode that it encodes to. -/
theorem cycleCost_of_encode {i : Instr} {op : Byte} {bytes : List Byte}
    (h : encode i = op :: bytes) : i.cycleCost = cycleCost op := by
  unfold encode at h
  unfold Instr.cycleCost
  split at h
  · cases h
    simp only [*]
  · cases h

/-- Settles O43: the instruction is named by a cell of the matrix, and the table's cell there allows what its meaning
spends. -/
theorem cycleTableAgreesWithTheMeanings : Obligations.CycleTableAgreesWithTheMeanings := by
  intro i s t hwf _ e ht
  obtain ⟨op, l, h, hcell⟩ := exists_entryAt_of_wellFormed hwf
  have hcost := cycleCost_of_encode (hcell ▸ encode_entryAt_instr _ op l h)
  have hallows := cycleCost_allows op l h
  rw [← entryAt_of_gateOpen (lvl := .w65c02s) rfl, hcell, ← hcost, allows, Bool.and_eq_true, decide_eq_true_eq,
    decide_eq_true_eq] at hallows
  obtain ⟨hleast, hmost⟩ := hallows
  obtain ⟨x, hx, hspends⟩ := exec_spends i
  rw [hx, run_apply] at e
  cases hxs : x s with
  | error f u =>
    rw [hxs] at e
    cases e
    cases ht
  | ok a u =>
    rw [hxs] at e
    cases e
    obtain ⟨-, n, hn, hn', hcycles⟩ := hspends s a t hxs
    exact ⟨n, by omega, by omega, hcycles⟩

end Sys2Proof.Machine
end
